-- ==== Sys2Proof/Word.lean ====
section
/-! DEFINITION. The plain data every other file speaks of: bytes, the 32-bit command word (30_encoding R90), the
name of an operand buffer, and the sink's answer (20_memory R66). -/

namespace Sys2Proof

/-- The smallest unit of the buffers and of the stream (20_memory R61: byte granularity). -/
abbrev Byte := BitVec 8

/-- The command word the host delivers whole with `ISSUE` (30_encoding R90). -/
abbrev CommandWord := BitVec 32

/-- The operand buffer a command selects with its YSRC bit (30_encoding R93): `a` is YSRC = 0, `y` is YSRC = 1. -/
inductive Buffer where
  | a
  | y
  deriving DecidableEq, Repr, Inhabited

/-- The sink's answer to one `Append(b)` or one `SinkControl()` (20_memory R66). For `SinkControl` the number of
bytes of a failure means nothing. -/
inductive SinkVerdict where
  /-- the sink took every byte -/
  | ok
  /-- the sink reports a failure after taking `k` bytes -/
  | fail (k : Nat)
  deriving DecidableEq, Repr, Inhabited

end Sys2Proof
end

