-- ==== Sys2Proof/Machine/CommandWord.lean ====
section
/-! DEFINITION. The fields of the command word (30_encoding R90), taken apart and put together in one place. -/

namespace Sys2Proof.Machine

/-- `OP = c[7:0]` (R90, R91). -/
def opField (c : CommandWord) : BitVec 8 := c.extractLsb' 0 8

/-- `YSRC = c[8]` (R90, R93). -/
def ysrcField (c : CommandWord) : BitVec 1 := c.extractLsb' 8 1

/-- `RES = c[31:9]` (R90, R92). -/
def resField (c : CommandWord) : BitVec 23 := c.extractLsb' 9 23

/-- The YSRC bit that selects a buffer (R93). -/
def ysrcOf : Buffer → BitVec 1
  | .a => 0
  | .y => 1

/-- The buffer a YSRC bit selects (R93). -/
def bufferOf (ysrc : BitVec 1) : Buffer := if ysrc = 0 then .a else .y

/-- The word with the given OP and YSRC and with RES = 0 (R90). -/
def wordOf (op : BitVec 8) (src : Buffer) : CommandWord := (0 : BitVec 23) ++ ysrcOf src ++ op

end Sys2Proof.Machine
end

