-- ==== Sys2Proof/Config.lean ====
section
/-! DEFINITION. What an implementation fixes (00_scope R7) and the free values: constants with no body, so that a
claim about the engine holds for every value they may have. -/

namespace Sys2Proof

/-- `P_IP_ID` (R7, R168): the identification field of every IPv4 header. Free (log 1). -/
opaque Config.ipId : BitVec 16

/-- `P_FRAME_DMAC` (R7, R203): the destination MAC address FRAME uses. Free (log 1). -/
opaque Config.frameDmac : BitVec 48

/-- `P_FRAME_SMAC` (R7, R203): the source MAC address FRAME uses. Free (log 1). -/
opaque Config.frameSmac : BitVec 48

/-- The free 32-bit number behind `P_BUF_MAX` (log 2). -/
opaque Config.bufMaxRaw : BitVec 32

/-- `P_BUF_MAX` (R7): the capacity of the buffers A and Y. Every number from 65549 to 2^32 - 1 is the value for
some `bufMaxRaw`, and no other is (log 2). -/
def Config.bufMax : Nat := max 65549 Config.bufMaxRaw.toNat

/-- The sink's verdict on the `n`-th draw, where the sink's script says nothing (20_memory R66: a free draw,
unconstrained). DESIGN CHOICE: the form of the draw (log 4). Safe. -/
opaque Config.sinkVerdict : Nat → SinkVerdict

/-- What the 32-bit FINFO records for a number of 2^32 or more, a value the spec does not state (R272). DESIGN
CHOICE: free (log 6). Safe. -/
opaque Config.wideInfo : Nat → BitVec 32

end Sys2Proof
end

