-- ==== Sys2Proof/Machine/Port.lean ====
section
/-! DEFINITION. The host port (10_state R40 to R42): the argument registers by name and number, the actions the host
can take, and which of them the port accepts. -/

namespace Sys2Proof.Machine

/-- The eleven argument registers (10_state R21). -/
inductive ArgReg where
  | dmac | smac | sip | dip | sport | dport | seq | ack | tflags | proto | ts
  deriving DecidableEq, Repr

/-- The index column of R21. -/
def ArgReg.index : ArgReg → Nat
  | .dmac => 0 | .smac => 1 | .sip => 2 | .dip => 3 | .sport => 4 | .dport => 5
  | .seq => 6 | .ack => 7 | .tflags => 8 | .proto => 9 | .ts => 10

/-- The width column of R21, in bits. -/
def ArgReg.width : ArgReg → Nat
  | .dmac => 48 | .smac => 48 | .sip => 32 | .dip => 32 | .sport => 16 | .dport => 16
  | .seq => 32 | .ack => 32 | .tflags => 8 | .proto => 8 | .ts => 64

/-- The register an index of the 8-bit index space names; 11 to 255 are reserved and name none (R21). -/
def ArgReg.ofIndex (i : BitVec 8) : Option ArgReg :=
  match i.toNat with
  | 0 => some .dmac
  | 1 => some .smac
  | 2 => some .sip
  | 3 => some .dip
  | 4 => some .sport
  | 5 => some .dport
  | 6 => some .seq
  | 7 => some .ack
  | 8 => some .tflags
  | 9 => some .proto
  | 10 => some .ts
  | _ => none

/-- What `READ` can name (R40). Buffer A is not in the list. -/
inductive ReadTarget where
  | y
  | csumr
  | status
  | finfo
  | stream
  | reg (r : ArgReg)
  deriving DecidableEq, Repr

/-- The host's actions (R40). -/
inductive HostAction where
  /-- `RESET` -/
  | reset
  /-- `SET r, v`: the index and the value as the host offers them, in range or not -/
  | set (r : BitVec 8) (v : Nat)
  /-- `LOAD_A b` -/
  | loadA (b : List Byte)
  /-- `ISSUE c` -/
  | issue (c : CommandWord)
  /-- `READ x` -/
  | read (x : ReadTarget)
  /-- any attempt that R40's table does not list, such as a write to Y or to STATUS (DEDUCED, log 10) -/
  | outside
  deriving DecidableEq, Repr

/-- Whether the port accepts an action, or refuses it (R41). -/
def HostAction.accepted : HostAction → Bool
  | .reset => true
  | .set r v => match ArgReg.ofIndex r with
    | some q => decide (v < 2 ^ q.width)
    | none => false
  | .loadA b => decide (b.length ≤ Config.bufMax)
  | .issue _ => true
  | .read _ => true
  | .outside => false

end Sys2Proof.Machine
end

