-- ==== Sys2Proof/Syntax.lean ====
section
/-! DEFINITION. The nine commands of the opcode table (30_encoding R95), one constructor per row. -/

namespace Sys2Proof

/-- A command. Those that take an operand buffer carry the one YSRC selects (R93); OPEN, GHDR and CLOSE take none,
and YSRC = 1 is illegal for them (R97), so every term of this type is a legal command. -/
inductive Instr where
  /-- CSUM, CSUM.Y (R140) -/
  | csum (src : Buffer)
  /-- ETH, ETH.Y (R160) -/
  | eth (src : Buffer)
  /-- IPV4, IPV4.Y (R165) -/
  | ipv4 (src : Buffer)
  /-- TCP, TCP.Y (R170) -/
  | tcp (src : Buffer)
  /-- FRAME, FRAME.Y (R200) -/
  | frame (src : Buffer)
  /-- OPEN (R221) -/
  | openFile
  /-- GHDR (R228) -/
  | ghdr
  /-- WREC, WREC.Y (R240) -/
  | wrec (src : Buffer)
  /-- CLOSE (R250) -/
  | closeFile
  deriving DecidableEq, Repr

end Sys2Proof
end

