-- ==== Sys2Proof/WellFormed.lean ====
section
/-! DEFINITION. Which inputs are well formed. A term of `Instr` is legal by its type; what can be ill formed is a command WORD
(30_encoding R92, R93, R97, checked field by field here and row by row in Decode) and a host action (10_state R41). -/

namespace Sys2Proof

/-- The OP values of the commands that take an operand buffer (R93, R95). -/
def Command.operandOps : List (BitVec 8) := [0x01, 0x02, 0x03, 0x04, 0x05, 0x12]

/-- The OP values of the commands that take none (R93, R95). -/
def Command.plainOps : List (BitVec 8) := [0x10, 0x11, 0x13]

/-- OP is assigned (R97, first item). -/
def Command.opAssigned (c : CommandWord) : Bool :=
  (Command.operandOps ++ Command.plainOps).contains (Machine.opField c)

/-- RES is zero (R92; R97, second item). -/
def Command.resZero (c : CommandWord) : Bool := Machine.resField c == 0

/-- YSRC is not set on OPEN, GHDR or CLOSE (R93; R97, third item). -/
def Command.ysrcAllowed (c : CommandWord) : Bool :=
  Machine.ysrcField c == 0 || !Command.plainOps.contains (Machine.opField c)

/-- A command word is well formed when none of the three items of R97 holds of it. -/
def Command.WellFormed (c : CommandWord) : Bool :=
  Command.opAssigned c && Command.resZero c && Command.ysrcAllowed c

/-- A host action is well formed when the port does not refuse it (R41). -/
abbrev HostAction.WellFormed (a : Machine.HostAction) : Bool := a.accepted

end Sys2Proof
end

