-- ==== Sys2Proof/Decode.lean ====
section
/-! DEFINITION. The opcode map (30_encoding R95), the total decoder (R96, R97), and after it the encoder. -/

namespace Sys2Proof

/-- Why a word is illegal (R97). The three are told apart by name only: the fault is the same. -/
inductive IllegalReason where
  | reservedBits
  | unassignedOp
  | operandSelect
  deriving DecidableEq, Repr

/-- One row of the opcode map (R95): a word `c` selects it when `c & mask = pattern`. -/
structure OpcodeRow where
  mnemonic : String
  pattern : CommandWord
  mask : CommandWord
  instr : Buffer → Instr

/-- The opcode map, row by row as R95 prints it. -/
def opcodeTable : List OpcodeRow :=
  [ ⟨"CSUM",  0x00000001, 0xFFFFFEFF, .csum⟩,
    ⟨"ETH",   0x00000002, 0xFFFFFEFF, .eth⟩,
    ⟨"IPV4",  0x00000003, 0xFFFFFEFF, .ipv4⟩,
    ⟨"TCP",   0x00000004, 0xFFFFFEFF, .tcp⟩,
    ⟨"FRAME", 0x00000005, 0xFFFFFEFF, .frame⟩,
    ⟨"OPEN",  0x00000010, 0xFFFFFFFF, fun _ => .openFile⟩,
    ⟨"GHDR",  0x00000011, 0xFFFFFFFF, fun _ => .ghdr⟩,
    ⟨"WREC",  0x00000012, 0xFFFFFEFF, .wrec⟩,
    ⟨"CLOSE", 0x00000013, 0xFFFFFFFF, fun _ => .closeFile⟩ ]

/-- A word selects a row when `c & mask = match` (R95). -/
def OpcodeRow.selectedBy (r : OpcodeRow) (c : CommandWord) : Bool := c &&& r.mask == r.pattern

/-- The name of what makes an unmatched word illegal (R97; RES first: R92 says "whatever its OP"). -/
def illegalReason (c : CommandWord) : IllegalReason :=
  if Command.resZero c = false then .reservedBits
  else if Command.opAssigned c = false then .unassignedOp
  else .operandSelect

/-- The decoder: total on the 32-bit words, each selecting exactly one row or illegal by name (R96). -/
def decode (c : CommandWord) : Except IllegalReason Instr :=
  match opcodeTable.find? (fun r => r.selectedBy c) with
  | some r => .ok (r.instr (Machine.bufferOf (Machine.ysrcField c)))
  | none => .error (illegalReason c)

/-- What the host's table word decodes to: bits at and above `nbits` are zero, and a command is exactly one 32-bit
word (R98). -/
def decodeTableWord (nbits w : Nat) : Option Instr :=
  if w % 2 ^ nbits < 2 ^ 32 then
    match decode (BitVec.ofNat 32 (w % 2 ^ nbits)) with
    | .ok i => some i
    | .error _ => none
  else none

/-- The word of a command, from the format of R90 and the OP column of R95. -/
def encode : Instr → CommandWord
  | .csum src => Machine.wordOf 0x01 src
  | .eth src => Machine.wordOf 0x02 src
  | .ipv4 src => Machine.wordOf 0x03 src
  | .tcp src => Machine.wordOf 0x04 src
  | .frame src => Machine.wordOf 0x05 src
  | .openFile => Machine.wordOf 0x10 .a
  | .ghdr => Machine.wordOf 0x11 .a
  | .wrec src => Machine.wordOf 0x12 src
  | .closeFile => Machine.wordOf 0x13 .a

/-! The decoding of every constructor, shown on words written out from R99's examples and each command's own rule. -/

theorem decode_csum_word : decode 0x00000001 = .ok (.csum .a) := rfl
theorem decode_csumY_word : decode 0x00000101 = .ok (.csum .y) := rfl
theorem decode_eth_word : decode 0x00000002 = .ok (.eth .a) := rfl
theorem decode_ethY_word : decode 0x00000102 = .ok (.eth .y) := rfl
theorem decode_ipv4_word : decode 0x00000003 = .ok (.ipv4 .a) := rfl
theorem decode_ipv4Y_word : decode 0x00000103 = .ok (.ipv4 .y) := rfl
theorem decode_tcp_word : decode 0x00000004 = .ok (.tcp .a) := rfl
theorem decode_tcpY_word : decode 0x00000104 = .ok (.tcp .y) := rfl
theorem decode_frame_word : decode 0x00000005 = .ok (.frame .a) := rfl
theorem decode_frameY_word : decode 0x00000105 = .ok (.frame .y) := rfl
theorem decode_open_word : decode 0x00000010 = .ok .openFile := rfl
theorem decode_ghdr_word : decode 0x00000011 = .ok .ghdr := rfl
theorem decode_wrec_word : decode 0x00000012 = .ok (.wrec .a) := rfl
theorem decode_wrecY_word : decode 0x00000112 = .ok (.wrec .y) := rfl
theorem decode_close_word : decode 0x00000013 = .ok .closeFile := rfl

end Sys2Proof
end

