-- ==== Sys2Proof/Machine/Bytes.lean ====
section
/-! DEFINITION. The fixed-width encoders of 00_scope R10 and the address packing of 10_state R22: the one place where
byte order is decided (20_memory R62, R63). -/

namespace Sys2Proof.Machine

/-- Byte `i` of a value, counted from the least significant one. -/
def byteAt {w : Nat} (v : BitVec w) (i : Nat) : Byte := v.extractLsb' (8 * i) 8

/-- `be16(v)` (R10). -/
def be16 (v : BitVec 16) : List Byte := [byteAt v 1, byteAt v 0]

/-- `be32(v)` (R10). -/
def be32 (v : BitVec 32) : List Byte := [byteAt v 3, byteAt v 2, byteAt v 1, byteAt v 0]

/-- `be48(v)` (R10). -/
def be48 (v : BitVec 48) : List Byte :=
  [byteAt v 5, byteAt v 4, byteAt v 3, byteAt v 2, byteAt v 1, byteAt v 0]

/-- `le16(v)` (R10). -/
def le16 (v : BitVec 16) : List Byte := [byteAt v 0, byteAt v 1]

/-- `le32(v)` (R10). -/
def le32 (v : BitVec 32) : List Byte := [byteAt v 0, byteAt v 1, byteAt v 2, byteAt v 3]

/-- The number a little-endian byte list spells. -/
def leNat : List Byte → Nat
  | [] => 0
  | b :: rest => b.toNat + 256 * leNat rest

/-- The number whose first written byte is the most significant (R22): dotted-decimal and colon-hex packing. -/
def packBytes (b : List Byte) : Nat := b.foldl (fun acc x => acc * 256 + x.toNat) 0

end Sys2Proof.Machine
end

