-- ==== Sys2Proof/Machine/State.lean ====
section
/-! DEFINITION. The machine's state as plain data (10_state R20), the state right after reset (R35), and the reasons a
step can stop. -/

namespace Sys2Proof.Machine

/-- The reasons a step stops the machine. There is none: each fault of 60_exceptions R271 is recorded in STATUS and
FINFO and the engine goes on accepting host actions (R273, R274), so it is a next state (log 9); and every command
completes (R330). -/
inductive Fault where
  deriving DecidableEq, Repr

/-- The reasons a command has no meaning. -/
inductive Refusal where
  /-- Raised by `exec`'s arm of a command whose meaning is not written; no arm raises it any more. Safe: nothing can
  be proved of such a command. -/
  | notModelled (mnemonic : String)
  deriving DecidableEq, Repr

/-- The fault codes of 60_exceptions R271, in the order of their numbers. -/
inductive FaultCode where
  | illegalCommand
  | unwrittenOperand
  | lengthOverflow
  | bufferOverflow
  | nonAscii
  | sequence
  | timestampRange
  | ioError
  deriving DecidableEq, Repr

/-- `WSTATE`, the capture writer's place in the file protocol (10_state R31). -/
inductive WState where
  | closed
  | opened
  | header
  deriving DecidableEq, Repr

/-- What a `READ` returns (10_state R42): `unwritten` is the distinguished answer for `⊥`. -/
inductive ReadAnswer where
  | unwritten
  | number (v : Nat)
  | bytes (b : List Byte)
  deriving DecidableEq, Repr

/-- The argument registers (10_state R21). `none` is the spec's own value `⊥`, "never written since reset" (R24;
log 3). -/
structure Regs where
  dmac : Option (BitVec 48)
  smac : Option (BitVec 48)
  sip : Option (BitVec 32)
  dip : Option (BitVec 32)
  sport : Option (BitVec 16)
  dport : Option (BitVec 16)
  seq : Option (BitVec 32)
  ack : Option (BitVec 32)
  tflags : Option (BitVec 8)
  proto : Option (BitVec 8)
  ts : Option (BitVec 64)
  deriving DecidableEq, Repr

/-- The whole state. The first ten fields are the engine's and its mark REFUSED (R20, R41); the last four stand for the
two parties outside it, the host (R40) and the sink (20_memory R66). -/
structure State where
  /-- the argument registers (R21) -/
  regs : Regs
  /-- the operand buffer A (R25) -/
  bufA : Option (List Byte)
  /-- the result buffer Y (R26) -/
  bufY : Option (List Byte)
  /-- CSUMR (R27) -/
  csumr : Option (BitVec 16)
  /-- STATUS.FCODE (R28): `none` is 0, no fault since reset -/
  fcode : Option FaultCode
  /-- STATUS.WSTATE (R28, R31) -/
  wstate : WState
  /-- FINFO (R29) -/
  finfo : BitVec 32
  /-- STREAM (R32) -/
  stream : List Byte
  /-- the mark REFUSED (R20, R41), false after RESET (R35, R310; log 5) -/
  refused : Bool
  /-- the mark as R41 keeps it, which no command and no RESET clears (log 5) -/
  everRefused : Bool
  /-- the model's own: the host's pending actions, oldest first (log 7) -/
  inbox : List HostAction
  /-- the model's own: the answers of the READs performed, oldest first (log 8) -/
  outbox : List ReadAnswer
  /-- the model's own: the sink's coming verdicts (log 4) -/
  sinkScript : List SinkVerdict
  /-- the model's own: how many verdicts have been drawn (log 4) -/
  draws : Nat
  deriving DecidableEq, Repr

/-- The argument registers after reset (R35): `PROTO` is 6 and every other one is `⊥`. -/
def Regs.reset : Regs :=
  { dmac := none, smac := none, sip := none, dip := none, sport := none, dport := none,
    seq := none, ack := none, tflags := none, proto := some 6, ts := none }

/-- The state after reset (R35, 70_reset R310). The engine is idle: the host has no action pending (R312). The last
four fields are the model's own; their values are a DESIGN CHOICE (log 20). -/
def State.reset : State :=
  { regs := Regs.reset, bufA := none, bufY := none, csumr := none, fcode := none, wstate := .closed,
    finfo := 0, stream := [], refused := false, everRefused := false,
    inbox := [], outbox := [], sinkScript := [], draws := 0 }

end Sys2Proof.Machine
end

