-- ==== Sys2Proof/Machine/Flags.lean ====
section
/-! DEFINITION. The STATUS register as the host reads it (10_state R28). The engine has no condition flags (R33). -/

namespace Sys2Proof.Machine

/-- The number of a fault code (60_exceptions R271). -/
def FaultCode.code : FaultCode → BitVec 8
  | .illegalCommand => 1
  | .unwrittenOperand => 2
  | .lengthOverflow => 3
  | .bufferOverflow => 4
  | .nonAscii => 5
  | .sequence => 6
  | .timestampRange => 7
  | .ioError => 8

/-- The number of a writer state (R28, R31). -/
def WState.code : WState → BitVec 2
  | .closed => 0
  | .opened => 1
  | .header => 2

/-- The field FCODE (R28): 0 is no fault. -/
def State.fcodeBits (s : State) : BitVec 8 :=
  match s.fcode with
  | none => 0
  | some f => f.code

/-- STATUS: reserved bits read 0, then WSTATE, then FCODE (R28). -/
def State.status (s : State) : BitVec 32 := (0 : BitVec 22) ++ s.wstate.code ++ s.fcodeBits

end Sys2Proof.Machine
end

