-- ==== Sys2Proof/Machine/Ops.lean ====
section
/-! DEFINITION. The named operations over the state: the updates, raising a fault (60_exceptions R273), the sink
primitives (20_memory R66), reset (70_reset R310), and the frame every command runs in (30_encoding R96). -/

namespace Sys2Proof.Machine

/-! ## Updates of one field -/

/-- `reg[r] <- v` (R40 `SET`), the value cut to the register's width; the port has checked it fits (R41). -/
def Regs.set (g : Regs) (r : ArgReg) (v : Nat) : Regs :=
  match r with
  | .dmac => { g with dmac := some (BitVec.ofNat 48 v) }
  | .smac => { g with smac := some (BitVec.ofNat 48 v) }
  | .sip => { g with sip := some (BitVec.ofNat 32 v) }
  | .dip => { g with dip := some (BitVec.ofNat 32 v) }
  | .sport => { g with sport := some (BitVec.ofNat 16 v) }
  | .dport => { g with dport := some (BitVec.ofNat 16 v) }
  | .seq => { g with seq := some (BitVec.ofNat 32 v) }
  | .ack => { g with ack := some (BitVec.ofNat 32 v) }
  | .tflags => { g with tflags := some (BitVec.ofNat 8 v) }
  | .proto => { g with proto := some (BitVec.ofNat 8 v) }
  | .ts => { g with ts := some (BitVec.ofNat 64 v) }

/-- `reg[r]` as an unsigned number, or `⊥` (R22, R42). -/
def Regs.get (g : Regs) (r : ArgReg) : Option Nat :=
  match r with
  | .dmac => g.dmac.map BitVec.toNat
  | .smac => g.smac.map BitVec.toNat
  | .sip => g.sip.map BitVec.toNat
  | .dip => g.dip.map BitVec.toNat
  | .sport => g.sport.map BitVec.toNat
  | .dport => g.dport.map BitVec.toNat
  | .seq => g.seq.map BitVec.toNat
  | .ack => g.ack.map BitVec.toNat
  | .tflags => g.tflags.map BitVec.toNat
  | .proto => g.proto.map BitVec.toNat
  | .ts => g.ts.map BitVec.toNat

/-- The host's `SET` (R40). -/
def State.withReg (r : ArgReg) (v : Nat) (s : State) : State := { s with regs := s.regs.set r v }

/-- The host's `LOAD_A` (R40). -/
def State.withA (b : List Byte) (s : State) : State := { s with bufA := some b }

/-- `Y <- b` (R26). -/
def State.withY (b : List Byte) (s : State) : State := { s with bufY := some b }

/-- `CSUMR <- v` (R27). -/
def State.withCsumr (v : BitVec 16) (s : State) : State := { s with csumr := some v }

/-- `WSTATE <- w` (R31). -/
def State.withWState (w : WState) (s : State) : State := { s with wstate := w }

/-- `STREAM <- b` (R32). -/
def State.withStream (b : List Byte) (s : State) : State := { s with stream := b }

/-- A refused host action: it sets the mark, in both its forms (log 5), and changes nothing else (R41). -/
def State.markRefused (s : State) : State := { s with refused := true, everRefused := true }

/-- The host has one more answer (R42). -/
def State.withAnswer (x : ReadAnswer) (s : State) : State := { s with outbox := s.outbox ++ [x] }

/-- The host's pending actions become `as`. -/
def State.withInbox (as : List HostAction) (s : State) : State := { s with inbox := as }

/-- The sink's next verdict has been drawn. -/
def State.drawSink (s : State) : State :=
  { s with sinkScript := s.sinkScript.tail, draws := s.draws + 1 }

/-! ## Faults -/

/-- A fault a command finds: its code and the information it records (R271, R272). -/
structure FaultInfo where
  code : FaultCode
  info : Nat
  deriving DecidableEq, Repr

/-- The 32 bits FINFO records for a number (R272). A number of 2^32 or more does not fit, and what is recorded is
free: DESIGN CHOICE (log 6). -/
def infoWord (n : Nat) : BitVec 32 := if n < 2 ^ 32 then BitVec.ofNat 32 n else Config.wideInfo n

/-- Fault entry (R273), the one operation that takes a fault: FCODE and FINFO are written and nothing else. There is
no saved pc, no handler and no vector. There is no return from a fault either (R275): only `State.afterReset`
clears it. -/
def State.raise (f : FaultInfo) (s : State) : State :=
  { s with fcode := some f.code, finfo := infoWord f.info }

/-- The host action `RESET` (R40, 70_reset R310): every piece of the engine's state gets its value of R35, REFUSED
included. The mark that R41 keeps stays (log 5). The host's and the sink's own fields are not the engine's and stay
(log 12). -/
def State.afterReset (s : State) : State :=
  { State.reset with
    everRefused := s.everRefused
    inbox := s.inbox, outbox := s.outbox, sinkScript := s.sinkScript, draws := s.draws }

/-! ## The sink -/

/-- The sink's verdict on the next draw (20_memory R66): the script's, or the free one where the script is used up
(log 4). -/
def State.sinkAnswer (s : State) : SinkVerdict :=
  match s.sinkScript with
  | v :: _ => v
  | [] => Config.sinkVerdict s.draws

/-- `Append(b)` (R66), and what the command does next when the sink takes every byte. On a failure the prefix the
sink took is kept and `IO_ERROR(k)` is raised, with 0 <= k <= len(b). -/
def sinkAppend (b : List Byte) (done : State → State) (s : State) : State :=
  match s.sinkAnswer with
  | .ok => done (s.drawSink.withStream (s.stream ++ b))
  | .fail k =>
    (s.drawSink.withStream (s.stream ++ b.take (min k b.length))).raise ⟨.ioError, min k b.length⟩

/-- `SinkControl()` (R66), and what the command does next when the sink answers OK. -/
def sinkControl (done : State → State) (s : State) : State :=
  match s.sinkAnswer with
  | .ok => done s.drawSink
  | .fail _ => s.drawSink.raise ⟨.ioError, 0⟩

/-! ## The frame of a command -/

/-- A value a command has checked, or the first fault its checks found (R280). -/
abbrev Checked (α : Type) := Except FaultInfo α

/-- How every command runs (30_encoding R96, 60_exceptions R273, R274): discarded while FCODE is not 0; else its
checks, and then its effect or the fault they found. -/
def runCommand {α : Type} (check : State → Checked α) (effect : α → State → State) (s : State) : State :=
  match s.fcode with
  | some _ => s
  | none =>
    match check s with
    | .ok v => effect v s
    | .error f => s.raise f

/-- The issue of a word that no row matches (R97): `ILLEGAL_COMMAND(c)`, or discarded. -/
def illegalCommand (c : CommandWord) (s : State) : State :=
  runCommand (α := Unit) (fun _ => .error ⟨.illegalCommand, c.toNat⟩) (fun _ t => t) s

end Sys2Proof.Machine
end

