-- ==== Sys2Proof/Machine/Operands.lean ====
section
/-! DEFINITION. Every way a command reads an operand, and the checks shared by several commands: an unwritten operand
(10_state R24), the writer's state (43_capture_writer R220), a buffer's capacity (60_exceptions R271). -/

namespace Sys2Proof.Machine

/-- Read an operand that may hold `⊥`: `UNWRITTEN_OPERAND(id)` if it does (R24). -/
def needs {α : Type} (id : Nat) (x : Option α) : Checked α :=
  match x with
  | some v => .ok v
  | none => .error ⟨.unwrittenOperand, id⟩

/-- The operand's content under its buffer select (30_encoding R93), `⊥` included. -/
def State.buffer (s : State) : Buffer → Option (List Byte)
  | .a => s.bufA
  | .y => s.bufY

/-- The operand id of a buffer (R24): 0x100 for A and 0x101 for Y. -/
def bufferId : Buffer → Nat
  | .a => 0x100
  | .y => 0x101

/-- `Operand(c)`, read whole (R93, 20_memory R61). -/
def operand (src : Buffer) (s : State) : Checked (List Byte) := needs (bufferId src) (s.buffer src)

/-- `SEQUENCE(WSTATE)` unless the writer is in state `w` (43_capture_writer R220, 60_exceptions R272). -/
def inState (w : WState) (s : State) : Checked Unit :=
  if s.wstate = w then .ok () else .error ⟨.sequence, s.wstate.code.toNat⟩

/-- `BUFFER_OVERFLOW(len(r))` when a result is longer than `P_BUF_MAX` (R160, R170). -/
def fitsBuffer (r : List Byte) : Checked (List Byte) :=
  if r.length ≤ Config.bufMax then .ok r else .error ⟨.bufferOverflow, r.length⟩

end Sys2Proof.Machine
end

