-- ==== Sys2Proof/Machine/Timestamp.lean ====
section
/-! DEFINITION. The timestamp's IEEE 754 binary64 arithmetic (43_capture_writer R241, R242), exact over natural numbers.
A finite non-negative binary64 value is a whole multiple of 2^-1074, so it is held as the number of those units: the
subtraction is exact, and rounding to binary64 is rounding to 53 significant bits (DEDUCED, log 14). -/

namespace Sys2Proof.Machine

/-- How many units of 2^-1074 make 1. -/
def unitsPerOne : Nat := 2 ^ 1074

/-- The sign bit of a binary64 pattern. -/
def signBit (t : BitVec 64) : Bool := t.getLsbD 63

/-- The exponent field, bits [62:52]. -/
def exponentField (t : BitVec 64) : Nat := (t.extractLsb' 52 11).toNat

/-- The fraction field, bits [51:0]. -/
def fractionField (t : BitVec 64) : Nat := (t.extractLsb' 0 52).toNat

/-- The pattern is a number, neither an infinity nor a NaN. -/
def isFinite (t : BitVec 64) : Bool := exponentField t != 0x7FF

/-- The magnitude of a finite pattern in units of 2^-1074. -/
def magnitude (t : BitVec 64) : Nat :=
  if exponentField t = 0 then fractionField t
  else (2 ^ 52 + fractionField t) * 2 ^ (exponentField t - 1)

/-- The range check of R241: finite, not negative (−0.0 counts as 0), and `floor(t) <= 2^32 - 1`. -/
def timestampOk (t : BitVec 64) : Bool :=
  isFinite t && (!signBit t || magnitude t == 0) && decide (magnitude t / unitsPerOne ≤ 2 ^ 32 - 1)

/-- The whole number nearest to `num / den`, ties to even (`den` positive). -/
def nearestEven (num den : Nat) : Nat :=
  let q := num / den
  let r := num % den
  if den < 2 * r ∨ (den = 2 * r ∧ q % 2 = 1) then q + 1 else q

/-- The binary64 rounding of the exact number `num / den` units, in units: to 53 significant bits, to nearest, ties to
even (R242 `round64`). Below 53 bits a whole number of units is what a subnormal or a small normal holds. -/
def round64 (num den : Nat) : Nat :=
  let drop := (num / den).log2 - 52
  nearestEven num (den * 2 ^ drop) * 2 ^ drop

/-- `secs <- floor(t)` (R242). -/
def wholeSeconds (t : BitVec 64) : Nat := magnitude t / unitsPerOne

/-- `us <- floor(round64(f * 1000000.0))` with `f = t - secs` (R242). -/
def microseconds (t : BitVec 64) : Nat :=
  round64 (magnitude t % unitsPerOne * 1000000) 1 / unitsPerOne

/-- The range check and the split (R241, R242): `TIMESTAMP_RANGE(TS[63:32])` or `(secs, us)`. -/
def splitTimestamp (t : BitVec 64) : Checked (BitVec 32 × BitVec 32) :=
  if timestampOk t then .ok (BitVec.ofNat 32 (wholeSeconds t), BitVec.ofNat 32 (microseconds t))
  else .error ⟨.timestampRange, (t.extractLsb' 32 32).toNat⟩

/-- The binary64 pattern of a magnitude in units that binary64 holds exactly, an overflow giving infinity. -/
def patternOf (n : Nat) : BitVec 64 :=
  let e := n.log2 - 51
  if n < 2 ^ 52 then BitVec.ofNat 64 n
  else if 0x7FF ≤ e then 0x7FF0000000000000
  else BitVec.ofNat 64 (e * 2 ^ 52 + (n / 2 ^ (e - 1) - 2 ^ 52))

end Sys2Proof.Machine
end

