-- ==== Sys2Proof/Machine/CaptureWriter.lean ====
section
/-! DEFINITION. The capture writer (43_capture_writer) and its commands OPEN, GHDR, WREC and CLOSE. -/

namespace Sys2Proof.Machine

/-- The global header (R230, R231): magic, version 2.4, zone 0, accuracy 0, snapshot length 65535, link type 1. -/
def globalHeader : List Byte :=
  le32 0xA1B2C3D4 ++ le16 2 ++ le16 4 ++ le32 0 ++ le32 0 ++ le32 65535 ++ le32 1

/-- `Record(secs, us, b)` (R244): both lengths are `len(b)`, with no truncation to the snapshot length (R246). -/
def recordBytes (secs us : BitVec 32) (b : List Byte) : List Byte :=
  le32 secs ++ le32 us ++ le32 (BitVec.ofNat 32 b.length) ++ le32 (BitVec.ofNat 32 b.length) ++ b

/-- OPEN (R221): it empties STREAM, asks the sink, and moves CLOSED to OPENED. -/
def execOpen (s : State) : Host.Outcome State Fault Refusal :=
  .next (runCommand (inState .closed)
    (fun _ t => sinkControl (fun u => u.withWState .opened) (t.withStream [])) s)

/-- GHDR (R228): it appends the global header and moves OPENED to HEADER. -/
def execGhdr (s : State) : Host.Outcome State Fault Refusal :=
  .next (runCommand (inState .opened)
    (fun _ t => sinkAppend globalHeader (fun u => u.withWState .header) t) s)

/-- The checks of WREC and the record it appends (R240). -/
def wrecResult (src : Buffer) (s : State) : Checked (List Byte) := do
  inState .header s
  let b ← operand src s
  let ts ← needs 10 s.regs.ts
  let (secs, us) ← splitTimestamp ts
  .ok (recordBytes secs us b)

/-- WREC, WREC.Y (R240): it appends one record; WSTATE stays HEADER. -/
def execWrec (src : Buffer) (s : State) : Host.Outcome State Fault Refusal :=
  .next (runCommand (wrecResult src) (fun r t => sinkAppend r (fun u => u) t) s)

/-- CLOSE (R250): it asks the sink and moves HEADER to CLOSED; STREAM is kept for the host. -/
def execClose (s : State) : Host.Outcome State Fault Refusal :=
  .next (runCommand (inState .header)
    (fun _ t => sinkControl (fun u => u.withWState .closed) t) s)

end Sys2Proof.Machine
end

