-- ==== Sys2Proof/Machine/Checksum.lean ====
section
/-! DEFINITION. The checksum engine (40_checksum) and its command CSUM. -/

namespace Sys2Proof.Machine

/-- An odd length is padded with one zero byte at the end (R141). -/
def padEven (b : List Byte) : List Byte := if b.length % 2 = 1 then b ++ [0] else b

/-- The big-endian 16-bit words of a byte sequence of even length (R141, 20_memory R63). -/
def beWords : List Byte → List Nat
  | hi :: lo :: rest => (hi.toNat * 256 + lo.toNat) :: beWords rest
  | _ => []

/-- The exact sum of the words of the padded sequence (R141). -/
def wordSum (b : List Byte) : Nat := (beWords (padEven b)).sum

/-- One fold: `(S >> 16) + (S & 0xFFFF)` (R141). -/
def foldOnce (S : Nat) : Nat := (S >>> 16) + (S &&& 0xFFFF)

/-- The fold loop (R141): it folds while `S >= 0x10000`. Each fold makes such an `S` smaller (R142), so `S` folds are
always enough. -/
def foldLoop : Nat → Nat → Nat
  | 0, S => S
  | n + 1, S => if 0x10000 ≤ S then foldLoop n (foldOnce S) else S

/-- The folded sum. -/
def foldSum (S : Nat) : Nat := foldLoop S S

/-- `checksum(b)` (R141). -/
def checksum (b : List Byte) : BitVec 16 := BitVec.ofNat 16 (0xFFFF - foldSum (wordSum b))

/-- The 16-bit accumulator with end-around carry of R145, over the words of the padded sequence. -/
def endAroundSum (b : List Byte) : Nat :=
  (beWords (padEven b)).foldl
    (fun acc w => if acc + w > 0xFFFF then acc + w - 0xFFFF else acc + w) 0

/-- CSUM, CSUM.Y (R140): `CSUMR <- checksum(B)`. -/
def execCsum (src : Buffer) (s : State) : Host.Outcome State Fault Refusal :=
  .next (runCommand (operand src) (fun b t => t.withCsumr (checksum b)) s)

end Sys2Proof.Machine
end

