-- ==== Sys2Proof/Machine/FrameBuilders.lean ====
section
/-! DEFINITION. The three header builders (41_frame_builders) and their commands ETH, IPV4 and TCP. -/

namespace Sys2Proof.Machine

/-! ## Ethernet -/

/-- `buildEthernet(d, s, p)` (R161). No padding and no frame check sequence (R162). -/
def buildEthernet (d s : BitVec 48) (p : List Byte) : List Byte := be48 d ++ be48 s ++ be16 0x0800 ++ p

/-- The checks and the result of ETH (R160). -/
def ethResult (src : Buffer) (s : State) : Checked (List Byte) := do
  let b ← operand src s
  let d ← needs 0 s.regs.dmac
  let m ← needs 1 s.regs.smac
  fitsBuffer (buildEthernet d m b)

/-- ETH, ETH.Y (R160): `Y <- buildEthernet(DMAC, SMAC, B)`. -/
def execEth (src : Buffer) (s : State) : Host.Outcome State Fault Refusal :=
  .next (runCommand (ethResult src) State.withY s)

/-! ## IPv4 -/

/-- The header `H(x)` (R166), with the identification as an argument (R168). -/
def ipv4Header (ipId : BitVec 16) (src dst : BitVec 32) (proto : BitVec 8) (tl x : BitVec 16) : List Byte :=
  [0x45, 0x00] ++ be16 tl ++ be16 ipId ++ be16 0x4000 ++ [0x40, proto] ++ be16 x ++ be32 src ++ be32 dst

/-- The packet: the header with the checksum of the header whose checksum field is zero (R169), then the payload. The
total length is `20 + len(p)` (R167). -/
def ipv4Packet (ipId : BitVec 16) (src dst : BitVec 32) (proto : BitVec 8) (p : List Byte) : List Byte :=
  let tl := BitVec.ofNat 16 (20 + p.length)
  let c0 := checksum (ipv4Header ipId src dst proto tl 0)
  ipv4Header ipId src dst proto tl c0 ++ p

/-- `buildIPv4(src, dst, p, proto)` (R165): `LENGTH_OVERFLOW(len(p))` when the total length does not fit 16 bits
(R167). -/
def buildIPv4 (ipId : BitVec 16) (src dst : BitVec 32) (p : List Byte) (proto : BitVec 8) : Checked (List Byte) :=
  if 20 + p.length > 0xFFFF then .error ⟨.lengthOverflow, p.length⟩
  else .ok (ipv4Packet ipId src dst proto p)

/-- The checks and the result of IPV4 (R165). -/
def ipv4Result (src : Buffer) (s : State) : Checked (List Byte) := do
  let b ← operand src s
  let sip ← needs 2 s.regs.sip
  let dip ← needs 3 s.regs.dip
  let proto ← needs 9 s.regs.proto
  buildIPv4 Config.ipId sip dip b proto

/-- IPV4, IPV4.Y (R165): `Y <- buildIPv4(SIP, DIP, B, PROTO)`. -/
def execIpv4 (src : Buffer) (s : State) : Host.Outcome State Fault Refusal :=
  .next (runCommand (ipv4Result src) State.withY s)

/-! ## TCP -/

/-- `buildTCP(sp, dp, seq, ack, fl, p)` (R171): data offset byte 0x50 (R172), window 0xFFFF (R173), the flags byte as
given (R174), the checksum field always zero. -/
def buildTCP (sp dp : BitVec 16) (seq ack : BitVec 32) (fl : BitVec 8) (p : List Byte) : List Byte :=
  be16 sp ++ be16 dp ++ be32 seq ++ be32 ack ++ [0x50, fl] ++ be16 0xFFFF ++ be16 0x0000 ++ be16 0x0000 ++ p

/-- The checks and the result of TCP (R170). -/
def tcpResult (src : Buffer) (s : State) : Checked (List Byte) := do
  let b ← operand src s
  let sp ← needs 4 s.regs.sport
  let dp ← needs 5 s.regs.dport
  let seq ← needs 6 s.regs.seq
  let ack ← needs 7 s.regs.ack
  let fl ← needs 8 s.regs.tflags
  fitsBuffer (buildTCP sp dp seq ack fl b)

/-- TCP, TCP.Y (R170): `Y <- buildTCP(SPORT, DPORT, SEQ, ACK, TFLAGS, B)`. -/
def execTcp (src : Buffer) (s : State) : Host.Outcome State Fault Refusal :=
  .next (runCommand (tcpResult src) State.withY s)

end Sys2Proof.Machine
end

