-- ==== Sys2Proof/Machine/PacketAssembler.lean ====
section
/-! DEFINITION. The packet assembler (42_packet_assembler) and its command FRAME. -/

namespace Sys2Proof.Machine

/-- `buildFrame` (R202): TCP, then IPv4 with protocol 6, then Ethernet with the two fixed addresses (R203). The
parameters are arguments. The intermediate segment and packet are values, never written to Y. -/
def buildFrame (ipId : BitVec 16) (dmac smac : BitVec 48) (sip dip : BitVec 32) (sp dp : BitVec 16)
    (seq ack : BitVec 32) (fl : BitVec 8) (t : List Byte) : Checked (List Byte) := do
  let pkt ← buildIPv4 ipId sip dip (buildTCP sp dp seq ack fl t) 6
  .ok (buildEthernet dmac smac pkt)

/-- `NON_ASCII(i)` with `i` the index of the first byte of 0x80 or more (R201). -/
def asciiOnly (b : List Byte) : Checked Unit :=
  match b.findIdx? (fun x => decide (0x80 ≤ x.toNat)) with
  | some i => .error ⟨.nonAscii, i⟩
  | none => .ok ()

/-- `LENGTH_OVERFLOW(len(B) + 20)` when the payload is longer than 65495 bytes (R200). -/
def frameLength (b : List Byte) : Checked Unit :=
  if b.length > 65495 then .error ⟨.lengthOverflow, b.length + 20⟩ else .ok ()

/-- The checks and the result of FRAME (R200). -/
def frameResult (src : Buffer) (s : State) : Checked (List Byte) := do
  let b ← operand src s
  let sip ← needs 2 s.regs.sip
  let dip ← needs 3 s.regs.dip
  let sp ← needs 4 s.regs.sport
  let dp ← needs 5 s.regs.dport
  let seq ← needs 6 s.regs.seq
  let ack ← needs 7 s.regs.ack
  let fl ← needs 8 s.regs.tflags
  asciiOnly b
  frameLength b
  buildFrame Config.ipId Config.frameDmac Config.frameSmac sip dip sp dp seq ack fl b

/-- FRAME, FRAME.Y (R200): `Y <- buildFrame(...)`. -/
def execFrame (src : Buffer) (s : State) : Host.Outcome State Fault Refusal :=
  .next (runCommand (frameResult src) State.withY s)

end Sys2Proof.Machine
end

