-- ==== Sys2Proof/Machine/Dispatch.lean ====
section
/-! DEFINITION. One arm per command (30_encoding R95, R96). -/

namespace Sys2Proof.Machine

def exec (i : Instr) (s : State) : Host.Outcome State Fault Refusal :=
  match i with
  | .csum src => Sys2Proof.Machine.execCsum src s
  | .eth src => Sys2Proof.Machine.execEth src s
  | .ipv4 src => Sys2Proof.Machine.execIpv4 src s
  | .tcp src => Sys2Proof.Machine.execTcp src s
  | .frame src => Sys2Proof.Machine.execFrame src s
  | .openFile => Sys2Proof.Machine.execOpen s
  | .ghdr => Sys2Proof.Machine.execGhdr s
  | .wrec src => Sys2Proof.Machine.execWrec src s
  | .closeFile => Sys2Proof.Machine.execClose s

end Sys2Proof.Machine
end

