-- ==== Sys2Proof/Machine/HostPort.lean ====
section
/-! DEFINITION. The host port at work (10_state R40 to R42): what RESET, SET, LOAD_A and READ do, and how the next
action of the host reaches the engine. -/

namespace Sys2Proof.Machine

/-- An argument register or CSUMR as `READ` answers it: `⊥` reads as "unwritten" (R42). -/
def numberAnswer (x : Option Nat) : ReadAnswer :=
  match x with
  | some v => .number v
  | none => .unwritten

/-- What `READ x` returns (R40, R42). -/
def State.readAnswer (s : State) : ReadTarget → ReadAnswer
  | .y => match s.bufY with
    | some b => .bytes b
    | none => .unwritten
  | .csumr => numberAnswer (s.csumr.map BitVec.toNat)
  | .status => .number s.status.toNat
  | .finfo => .number s.finfo.toNat
  | .stream => .bytes s.stream
  | .reg r => numberAnswer (s.regs.get r)

/-- `SET r, v` once the port has accepted it (R40). -/
def hostSet (r : BitVec 8) (v : Nat) (s : State) : State :=
  match ArgReg.ofIndex r with
  | some q => s.withReg q v
  | none => s

/-- A refused action sets the mark, an accepted one has the given effect (R40, R41). -/
def throughPort (a : HostAction) (effect : State → State) (s : State) : State :=
  if a.accepted then effect s else s.markRefused

/-- The effect of a host action other than an `ISSUE` (R40). An `ISSUE` runs a command and is `step`'s. -/
def hostEffect (a : HostAction) : State → State :=
  throughPort a (fun s =>
    match a with
    | .reset => s.afterReset
    | .set r v => hostSet r v s
    | .loadA b => s.withA b
    | .issue _ => s
    | .read x => s.withAnswer (s.readAnswer x)
    | .outside => s)

/-- The host's oldest pending action, and the state with it taken; none when the engine is idle (60 R292, 70 R312). -/
def State.nextAction (s : State) : Option (HostAction × State) :=
  match s.inbox with
  | [] => none
  | a :: rest => some (a, s.withInbox rest)

/-- The host's next action is the `ISSUE` of the command word whose bits are `w` (log 7). -/
def State.issueNext (s : State) (nbits w : Nat) : State :=
  s.withInbox (.issue (BitVec.ofNat 32 (w % 2 ^ nbits)) :: s.inbox)

end Sys2Proof.Machine
end

