-- ==== Sys2Proof/Machine/Step.lean ====
section
/-! DEFINITION. One step: one host action, an `ISSUE` with the whole command it runs (92 D1, 20_memory R65, 70_reset R320). -/

namespace Sys2Proof.Machine

/-- The step. With nothing pending the engine holds its state (60 R292). An `ISSUE` decodes its word and runs the
command, or raises `ILLEGAL_COMMAND` (30_encoding R96, R97); the frame of every command discards it while a fault
stands (60 R274). -/
def step (s : State) : Host.Outcome State Fault Refusal :=
  match s.nextAction with
  | none => .next s
  | some (.issue c, t) =>
    match decode c with
    | .ok i => exec i t
    | .error _ => .next (illegalCommand c t)
  | some (a, t) => .next (hostEffect a t)

/-- The command word `w` stored where `step` takes its next instruction: as the host's next action (log 7). -/
def State.withFetchWord (s : State) (nbits w : Nat) : State := s.issueNext nbits w

end Sys2Proof.Machine
end

