-- ==== Sys2Proof/Machine/AsmText.lean ====
section
/-! DEFINITION. The assembler's text (30_encoding R99 to R101): commands, host directives, value literals and the three
pseudo-instructions, read into host actions. A text is a list of characters. What the rules leave open of the text's
form is log 17; a text that is not of the form is read as none, never guessed at. -/

namespace Sys2Proof.Machine

/-! ## Commands and pseudo-instructions -/

/-- The suffix for YSRC = 1 (R99). -/
def bufferSuffix : Buffer → String
  | .a => ""
  | .y => ".Y"

/-- A command as it is written (R99). -/
def commandText : Instr → String
  | .csum src => "CSUM" ++ bufferSuffix src
  | .eth src => "ETH" ++ bufferSuffix src
  | .ipv4 src => "IPV4" ++ bufferSuffix src
  | .tcp src => "TCP" ++ bufferSuffix src
  | .frame src => "FRAME" ++ bufferSuffix src
  | .openFile => "OPEN"
  | .ghdr => "GHDR"
  | .wrec src => "WREC" ++ bufferSuffix src
  | .closeFile => "CLOSE"

/-- Every command. -/
def allCommands : List Instr :=
  [.csum .a, .csum .y, .eth .a, .eth .y, .ipv4 .a, .ipv4 .y, .tcp .a, .tcp .y, .frame .a, .frame .y,
   .openFile, .ghdr, .wrec .a, .wrec .y, .closeFile]

/-- The three pseudo-instructions (R101). -/
inductive Pseudo where
  | fileBegin
  | emit
  | fileEnd
  deriving DecidableEq, Repr

/-- The commands a pseudo-instruction means (R101). -/
def Pseudo.expand : Pseudo → List Instr
  | .fileBegin => [.openFile, .ghdr]
  | .emit => [.frame .a, .wrec .y]
  | .fileEnd => [.closeFile]

/-- A pseudo-instruction as it is written (R101). -/
def Pseudo.text : Pseudo → String
  | .fileBegin => "FILE_BEGIN"
  | .emit => "EMIT"
  | .fileEnd => "FILE_END"

/-- The host issues a command (R40). -/
def issueOf (i : Instr) : HostAction := .issue (encode i)

/-- A register as it is named (10_state R21). -/
def ArgReg.text : ArgReg → String
  | .dmac => "DMAC" | .smac => "SMAC" | .sip => "SIP" | .dip => "DIP" | .sport => "SPORT" | .dport => "DPORT"
  | .seq => "SEQ" | .ack => "ACK" | .tflags => "TFLAGS" | .proto => "PROTO" | .ts => "TS"

/-- Every argument register. -/
def allRegs : List ArgReg :=
  [.dmac, .smac, .sip, .dip, .sport, .dport, .seq, .ack, .tflags, .proto, .ts]

/-- Every name `READ` can take, with what it names (R40). -/
def readNames : List (String × ReadTarget) :=
  [("Y", .y), ("CSUMR", .csumr), ("STATUS", .status), ("FINFO", .finfo), ("STREAM", .stream)]
    ++ allRegs.map (fun r => (r.text, .reg r))

/-! ## Characters -/

/-- A blank between the parts of a line. -/
def isBlank (c : Char) : Bool := c == ' ' || c == '\t' || c == '\r'

/-- The double quote. -/
def quoteChar : Char := Char.ofNat 34

/-- The text without the blanks around it. -/
def trimBlank (t : List Char) : List Char :=
  ((t.dropWhile isBlank).reverse.dropWhile isBlank).reverse

/-- The text cut at every `sep`. -/
def cutAt (sep : Char) : List Char → List (List Char)
  | [] => [[]]
  | c :: rest =>
    if c = sep then [] :: cutAt sep rest
    else match cutAt sep rest with
      | [] => [[c]]
      | w :: ws => (c :: w) :: ws

/-- The text up to a `;` that is not inside double quotes (R99; log 17). -/
def dropComment : Bool → List Char → List Char
  | _, [] => []
  | quoted, c :: rest =>
    if c = quoteChar then c :: dropComment (!quoted) rest
    else if c = ';' && !quoted then []
    else c :: dropComment quoted rest

/-! ## Value literals (R100) -/

/-- The value of a digit in base 10 or 16. -/
def digitOf (base : Nat) (c : Char) : Option Nat :=
  let n := c.toNat
  let v := if 48 ≤ n && n ≤ 57 then some (n - 48)
    else if 97 ≤ n && n ≤ 102 then some (n - 87)
    else if 65 ≤ n && n ≤ 70 then some (n - 55)
    else none
  match v with
  | some d => if d < base then some d else none
  | none => none

/-- The digits of a text, which must be all digits and not empty. -/
def digitsOf (base : Nat) (t : List Char) : Option (List Nat) :=
  if t.isEmpty then none else t.mapM (digitOf base)

/-- The number that digits spell. -/
def ofDigits (base : Nat) (ds : List Nat) : Nat := ds.foldl (fun acc d => acc * base + d) 0

/-- An unsigned number in the given base. -/
def parseNat (base : Nat) (t : List Char) : Option Nat := (digitsOf base t).map (ofDigits base)

/-- A decimal or `0x` hexadecimal integer. -/
def parseInteger : List Char → Option Nat
  | '0' :: 'x' :: t => parseNat 16 t
  | t => parseNat 10 t

/-- Some if every entry is some byte. -/
def bytesOf (ns : List (Option Nat)) : Option (List Byte) :=
  ns.mapM (fun x => match x with
    | some n => if n < 256 then some (BitVec.ofNat 8 n) else none
    | none => none)

/-- Two hexadecimal digits, a byte of a colon-hex address or of LOAD_A. That a byte has exactly two, and that any other
count is read as none, is the model's DESIGN CHOICE (log 17): R22 and R100 give only `m0:m1:m2:m3:m4:m5`. -/
def parseHexPair (t : List Char) : Option Nat := if t.length = 2 then parseNat 16 t else none

/-- Dotted-decimal `a.b.c.d`, packed as 10_state R22 says. How many digits a part may have, leading zeros included, is the
model's DESIGN CHOICE (log 17). -/
def parseDotted (t : List Char) : Option Nat :=
  let parts := cutAt '.' t
  if parts.length = 4 then (bytesOf (parts.map (parseNat 10))).map packBytes else none

/-- Colon-hex `m0:m1:m2:m3:m4:m5`, packed as 10_state R22 says, each part two digits (DESIGN CHOICE, log 17). -/
def parseColon (t : List Char) : Option Nat :=
  let parts := cutAt ':' t
  if parts.length = 6 then (bytesOf (parts.map parseHexPair)).map packBytes else none

/-- An unsigned decimal real: the binary64 pattern nearest it, ties to even. -/
def parseUnsignedReal (t : List Char) : Option (BitVec 64) :=
  match cutAt '.' t with
  | [w] => (digitsOf 10 w).map (fun ds => patternOf (round64 (ofDigits 10 ds * unitsPerOne) 1))
  | [w, f] =>
    match digitsOf 10 w, digitsOf 10 f with
    | some ds, some fs =>
      some (patternOf (round64 (ofDigits 10 (ds ++ fs) * unitsPerOne) (10 ^ fs.length)))
    | _, _ => none
  | _ => none

/-- A decimal real, with its sign. -/
def parseReal : List Char → Option (BitVec 64)
  | '-' :: t => (parseUnsignedReal t).map (fun v => v ||| 0x8000000000000000)
  | t => parseUnsignedReal t

/-- A literal of `TS`: `bits:0x` and 16 hexadecimal digits, or a decimal real. -/
def parseTimestamp (t : List Char) : Option Nat :=
  if t.take 7 = ['b', 'i', 't', 's', ':', '0', 'x'] then
    if (t.drop 7).length = 16 then parseNat 16 (t.drop 7) else none
  else (parseReal t).map BitVec.toNat

/-- A literal of a register: an address register also takes its address form, `TS` takes a real or a pattern. -/
def parseValue (r : ArgReg) (t : List Char) : Option Nat :=
  match r with
  | .sip => (parseDotted t).or (parseInteger t)
  | .dip => (parseDotted t).or (parseInteger t)
  | .dmac => (parseColon t).or (parseInteger t)
  | .smac => (parseColon t).or (parseInteger t)
  | .ts => parseTimestamp t
  | _ => parseInteger t

/-- The bytes `LOAD_A` names: ASCII text in double quotes, or hexadecimal byte pairs in brackets. -/
def parseBytes (t : List Char) : Option (List Byte) :=
  match t with
  | [] => none
  | c :: rest =>
    if c = quoteChar then
      if rest.getLast? = some quoteChar && !rest.dropLast.contains quoteChar then
        rest.dropLast.mapM (fun x => if x.toNat < 128 then some (BitVec.ofNat 8 x.toNat) else none)
      else none
    else if c = '[' && rest.getLast? = some ']' then
      bytesOf (((cutAt ' ' rest.dropLast).filter (fun w => !w.isEmpty)).map parseHexPair)
    else none

/-! ## Lines -/

/-- The operand text of `SET`: a register's name, a comma, a value. -/
def parseSet (t : List Char) : Option HostAction :=
  match cutAt ',' t with
  | [name, value] =>
    match allRegs.find? (fun r => decide (r.text.toList = trimBlank name)) with
    | some r => (parseValue r (trimBlank value)).map (fun v => .set (BitVec.ofNat 8 r.index) v)
    | none => none
  | _ => none

/-- A line with one word: a command, a pseudo-instruction, or `RESET`. -/
def parseWord (w : List Char) : Option (List HostAction) :=
  match allCommands.find? (fun i => decide ((commandText i).toList = w)) with
  | some i => some [issueOf i]
  | none =>
    match [Pseudo.fileBegin, .emit, .fileEnd].find? (fun p => decide (p.text.toList = w)) with
    | some p => some (p.expand.map issueOf)
    | none => if w = "RESET".toList then some [.reset] else none

/-- A line (R99, R100): blank, a lone word, or a directive and its operand. -/
def parseLine (line : List Char) : Option (List HostAction) :=
  let t := trimBlank (dropComment false line)
  let w := t.takeWhile (fun c => !isBlank c)
  let rest := trimBlank (t.dropWhile (fun c => !isBlank c))
  if t.isEmpty then some []
  else if rest.isEmpty then parseWord w
  else if w = "SET".toList then (parseSet rest).map (fun a => [a])
  else if w = "LOAD_A".toList then (parseBytes rest).map (fun b => [.loadA b])
  else if w = "READ".toList then
    (readNames.find? (fun x => decide (x.1.toList = rest))).map (fun x => [.read x.2])
  else none

/-- A program text (R99 to R101): the host's actions in the order of its lines. -/
def assemble (text : List Char) : Option (List HostAction) :=
  ((cutAt '\n' text).mapM parseLine).map List.flatten

end Sys2Proof.Machine
end

