-- ==== Sys2Proof/Safety.lean ====
section
/-! DEFINITION. What counts as a good state and a safe run, in the terms claims use: the buffers within their capacity, the
capture file STREAM holds, and a reader of such files (43_capture_writer R220, R244, R247). -/

namespace Sys2Proof.Machine

/-! ## Buffers -/

/-- A buffer holds at most `P_BUF_MAX` bytes, or `⊥` (10_state R25, R26). -/
def bufferFits (x : Option (List Byte)) : Bool :=
  match x with
  | some b => decide (b.length ≤ Config.bufMax)
  | none => true

/-- The form the engine's byte storage keeps (R25, R26). There is no addressed memory (20_memory R60; log 13). -/
def Memory.wf (s : State) : Bool := bufferFits s.bufA && bufferFits s.bufY

/-! ## Capture files -/

/-- One record of a capture file: the pair `(secs, us)` and the frame bytes (R244). -/
structure CaptureRecord where
  secs : BitVec 32
  us : BitVec 32
  data : List Byte
  deriving DecidableEq, Repr

/-- A record a capture file can hold: microseconds 0 to 999999 (R243) and a length that fits 32 bits (R244). -/
def CaptureRecord.valid (r : CaptureRecord) : Prop := r.us.toNat ≤ 999999 ∧ r.data.length < 2 ^ 32

/-- The bytes of a record (R244). -/
def CaptureRecord.bytes (r : CaptureRecord) : List Byte := recordBytes r.secs r.us r.data

/-- A completed file: one global header, then the records in issue order (R220). -/
def captureFile (rs : List CaptureRecord) : List Byte :=
  globalHeader ++ (rs.map CaptureRecord.bytes).flatten

/-- A byte sequence is a well-formed capture file (R220). -/
def IsCapture (b : List Byte) : Prop :=
  ∃ rs : List CaptureRecord, (∀ r ∈ rs, r.valid) ∧ b = captureFile rs

/-- Reading records back, at most `n` of them (R247): a 16-byte little-endian header with two equal lengths, then that
many bytes. -/
def readRecords : Nat → List Byte → Option (List CaptureRecord)
  | _, [] => some []
  | 0, _ :: _ => none
  | n + 1, x :: rest =>
    let b := x :: rest
    let len := leNat ((b.drop 8).take 4)
    if b.length < 16 + len ∨ len ≠ leNat ((b.drop 12).take 4) then none
    else
      match readRecords n (b.drop (16 + len)) with
      | some rs =>
        some (⟨BitVec.ofNat 32 (leNat (b.take 4)), BitVec.ofNat 32 (leNat ((b.drop 4).take 4)),
               (b.drop 16).take len⟩ :: rs)
      | none => none

/-- Reading a capture file back (R247). -/
def readCapture (b : List Byte) : Option (List CaptureRecord) :=
  if b.take 24 = globalHeader then readRecords b.length (b.drop 24) else none

/-! ## Good states -/

/-- What STREAM holds: nothing while a file is only opened, a capture file while records may be appended, either one
while none is open; after a sink failure, a prefix of a capture file, which the host must discard (R220, R223). -/
def StreamOk (s : State) : Prop :=
  if s.fcode = some .ioError then ∃ rest, IsCapture (s.stream ++ rest)
  else match s.wstate with
    | .closed => s.stream = [] ∨ IsCapture s.stream
    | .opened => s.stream = []
    | .header => IsCapture s.stream

/-- The invariant of the machine. -/
structure State.Inv (s : State) : Prop where
  /-- A and Y hold at most `P_BUF_MAX` bytes (R25, R26) -/
  buffers : Memory.wf s = true
  /-- PROTO is never `⊥` (41_frame_builders R165: "cannot happen") -/
  protoWritten : s.regs.proto ≠ none
  /-- FINFO is 0 while FCODE is 0 (R29) -/
  infoZero : s.fcode = none → s.finfo = 0
  /-- STREAM against WSTATE and FCODE -/
  streamGood : StreamOk s

/-- A state of a safe run: no fault recorded and no action ever refused (R41). -/
def State.Safe (s : State) : Prop := s.fcode = none ∧ s.everRefused = false

end Sys2Proof.Machine
end

