-- ==== Sys2Proof/Certificates/Slice0/Obligations.lean ====
section
/-! DEFINITION. The statements about the engine, each a numbered rule of the spec or a consequence of several. No statement
fixes a parameter of 00_scope R7, a sink verdict, or any other free value of Config. -/

open Sys2Proof Sys2Proof.Machine

/-! ## The terms of the statements -/

/-- The table of 60_exceptions R281, its last row apart. -/
def Sys2Proof.Claims.possibleFaults : Instr → List FaultCode
  | .csum _ => [.unwrittenOperand]
  | .eth _ => [.unwrittenOperand, .bufferOverflow]
  | .ipv4 _ => [.unwrittenOperand, .lengthOverflow]
  | .tcp _ => [.unwrittenOperand, .bufferOverflow]
  | .frame _ => [.unwrittenOperand, .nonAscii, .lengthOverflow]
  | .openFile => [.sequence, .ioError]
  | .ghdr => [.sequence, .ioError]
  | .wrec _ => [.sequence, .unwrittenOperand, .timestampRange, .ioError]
  | .closeFile => [.sequence, .ioError]

/-- The buffer a command reads, if it reads one (30_encoding R93). -/
def Sys2Proof.Claims.bufferRead : Instr → Option Buffer
  | .csum src => some src
  | .eth src => some src
  | .ipv4 src => some src
  | .tcp src => some src
  | .frame src => some src
  | .openFile => none
  | .ghdr => none
  | .wrec src => some src
  | .closeFile => none

/-- The registers a command reads, in increasing index (10_state R21 "read by", R24). -/
def Sys2Proof.Claims.regsRead : Instr → List ArgReg
  | .csum _ => []
  | .eth _ => [.dmac, .smac]
  | .ipv4 _ => [.sip, .dip, .proto]
  | .tcp _ => [.sport, .dport, .seq, .ack, .tflags]
  | .frame _ => [.sip, .dip, .sport, .dport, .seq, .ack, .tflags]
  | .openFile => []
  | .ghdr => []
  | .wrec _ => [.ts]
  | .closeFile => []

/-- The ids of the operands a command reads that hold `⊥`, in the order of 10_state R24: the buffer first (0x100 for A,
0x101 for Y), then the registers by index. -/
def Sys2Proof.Claims.unwrittenIds (i : Instr) (s : State) : List Nat :=
  (match Claims.bufferRead i with
    | some .a => if s.bufA = none then [0x100] else []
    | some .y => if s.bufY = none then [0x101] else []
    | none => [])
  ++ ((Claims.regsRead i).filter (fun r => (s.regs.get r).isNone)).map ArgReg.index

/-- The writer state a capture command needs (43_capture_writer R220); the others need none. -/
def Sys2Proof.Claims.neededState : Instr → Option WState
  | .openFile => some .closed
  | .ghdr => some .opened
  | .wrec _ => some .header
  | .closeFile => some .header
  | _ => none

/-- The bytes a command offers the sink with `Append` (20_memory R66): the global header, or the record. -/
def Sys2Proof.Claims.offered (i : Instr) (s : State) : List Byte :=
  match i with
  | .ghdr => globalHeader
  | .wrec src =>
    match wrecResult src s with
    | .ok r => r
    | .error _ => []
  | _ => []

/-- The command writes Y when it succeeds (10_state R26). -/
def Sys2Proof.Claims.writesY : Instr → Bool
  | .eth _ => true
  | .ipv4 _ => true
  | .tcp _ => true
  | .frame _ => true
  | _ => false

/-- The command writes CSUMR when it succeeds (10_state R27). -/
def Sys2Proof.Claims.writesCsumr : Instr → Bool
  | .csum _ => true
  | _ => false

/-! ## Encoding -/

/-- Words written out from R95 and R99 decode to the commands they stand for, and three illegal words of 95 2.7 are
rejected by name. -/
def Obligations.CommandWordsDecode : Prop :=
  decode 0x00000001 = .ok (.csum .a) ∧ decode 0x00000102 = .ok (.eth .y) ∧
  decode 0x00000103 = .ok (.ipv4 .y) ∧ decode 0x00000004 = .ok (.tcp .a) ∧
  decode 0x00000105 = .ok (.frame .y) ∧ decode 0x00000010 = .ok .openFile ∧
  decode 0x00000011 = .ok .ghdr ∧ decode 0x00000112 = .ok (.wrec .y) ∧
  decode 0x00000013 = .ok .closeFile ∧
  decode 0x00000110 = .error .operandSelect ∧ decode 0x00000201 = .error .reservedBits ∧
  decode 0x00000006 = .error .unassignedOp

/-- Decoding and encoding agree both ways, over every 32-bit word (R90, R95): a word decodes to a command exactly when
it is that command's word. -/
def Obligations.DecodeIffEncode : Prop :=
  ∀ (c : CommandWord) (i : Instr), decode c = .ok i ↔ c = encode i

/-- The row-by-row decoder of R95 accepts exactly the words that R92, R93 and R97 allow field by field. -/
def Obligations.LegalWordIffFieldsLegal : Prop :=
  ∀ c : CommandWord, (∃ i, decode c = .ok i) ↔ Command.WellFormed c = true

/-- At most one row of the opcode map matches any word (R95). -/
def Obligations.OpcodeRowsDoNotOverlap : Prop :=
  ∀ (c : CommandWord) (r q : OpcodeRow), r ∈ opcodeTable → q ∈ opcodeTable →
    r.selectedBy c = true → q.selectedBy c = true → r.mnemonic = q.mnemonic

/-- R97: issuing a word that no row matches, which is every word with an unassigned OP, a RES bit set, or YSRC on OPEN,
GHDR or CLOSE, raises ILLEGAL_COMMAND with FINFO the word, and does nothing else. -/
def Obligations.IllegalWordRaisesIllegalCommand : Prop :=
  ∀ (s : State) (c : CommandWord) (rest : List HostAction),
    s.inbox = .issue c :: rest → s.fcode = none →
    ((∀ r ∈ opcodeTable, c &&& r.mask ≠ r.pattern) ∨
      opField c ∉ [0x01, 0x02, 0x03, 0x04, 0x05, 0x10, 0x11, 0x12, 0x13] ∨ resField c ≠ 0 ∨
      (ysrcField c = 1 ∧ opField c ∈ [0x10, 0x11, 0x13])) →
    step s = .next { s with inbox := rest, fcode := some .illegalCommand, finfo := c }

/-! ## Steps and the host port -/

/-- When the host's next action is the issue of a word that decodes to a command, the step takes the action and runs
exactly that command (R96, R40). -/
def Obligations.StepRunsDecodedCommand : Prop :=
  ∀ (s : State) (c : CommandWord) (rest : List HostAction) (i : Instr),
    s.inbox = .issue c :: rest → decode c = .ok i →
    step s = exec i { s with inbox := rest }

/-- Every step answers a next state: no command and no host action stops the machine (R330: every command completes);
and with no host action pending the engine holds its state (R292, R312). -/
def Obligations.EveryStepCompletes : Prop :=
  (∀ s : State, ∃ t, step s = .next t) ∧ (∀ s : State, s.inbox = [] → step s = .next s)

/-- `SET r, v` with an index of 0 to 10 and a value that fits writes that register and nothing else, and `LOAD_A b` with
a sequence that fits writes A and nothing else, whatever STATUS holds (R40, R21, R25, R64). -/
def Obligations.HostWritesRegistersAndA : Prop :=
  (∀ (s : State) (i : BitVec 8) (r : ArgReg) (v : Nat) (rest : List HostAction),
    s.inbox = .set i v :: rest → r.index = i.toNat → v < 2 ^ r.width →
    ∃ t, step s = .next t ∧ t.regs.get r = some v ∧
      (∀ q, q ≠ r → t.regs.get q = s.regs.get q) ∧
      t = { s with inbox := rest, regs := t.regs }) ∧
  (∀ (s : State) (b : List Byte) (rest : List HostAction),
    s.inbox = .loadA b :: rest → b.length ≤ Config.bufMax →
    step s = .next { s with inbox := rest, bufA := some b })

/-- R42: `READ` gives the host the current value, `⊥` as "unwritten", and changes nothing of the engine. -/
def Obligations.HostReadAnswersCurrentValue : Prop :=
  ∀ (s : State) (x : ReadTarget) (rest : List HostAction), s.inbox = .read x :: rest →
    ∃ ans, step s = .next { s with inbox := rest, outbox := s.outbox ++ [ans] } ∧
      (x = .stream → ans = .bytes s.stream) ∧
      (x = .status → ans = .number s.status.toNat) ∧
      (x = .finfo → ans = .number s.finfo.toNat) ∧
      (x = .y → s.bufY = none → ans = .unwritten) ∧
      (∀ b, x = .y → s.bufY = some b → ans = .bytes b) ∧
      (x = .csumr → s.csumr = none → ans = .unwritten) ∧
      (∀ v, x = .csumr → s.csumr = some v → ans = .number v.toNat) ∧
      (∀ r, x = .reg r → s.regs.get r = none → ans = .unwritten) ∧
      (∀ r v, x = .reg r → s.regs.get r = some v → ans = .number v)

/-- A SET to an index of 11 or more, a SET with a value wider than the register, a LOAD_A longer than `P_BUF_MAX` and an
action outside R40's table change no engine state and set the mark; and no step, a RESET's or a command's, clears the mark in
the form R41 keeps it (R41; two forms of the mark: log 5). -/
def Obligations.RefusedActionsOnlySetTheMark : Prop :=
  (∀ (s : State) (a : HostAction) (rest : List HostAction), s.inbox = a :: rest →
    ((∃ i v, a = .set i v ∧ 11 ≤ i.toNat) ∨
     (∃ i v r, a = .set i v ∧ ArgReg.index r = i.toNat ∧ 2 ^ r.width ≤ v) ∨
     (∃ b, a = .loadA b ∧ Config.bufMax < b.length) ∨
     a = .outside) →
    step s = .next { s with inbox := rest, refused := true, everRefused := true }) ∧
  (∀ s t : State, s.everRefused = true → step s = .next t → t.everRefused = true)

/-- `RESET` gives every piece of the engine's state its value of R35, REFUSED included (R40, R310). The form of the mark
that R41 keeps is another field (log 5). The host's and the sink's own fields are the model's
choice (log 12) and are not stated. -/
def Obligations.ResetActionRestoresResetValues : Prop :=
  ∀ (s : State) (rest : List HostAction), s.inbox = .reset :: rest →
    ∃ t, step s = .next t ∧ t.regs = State.reset.regs ∧ t.bufA = none ∧ t.bufY = none ∧ t.csumr = none ∧
      t.fcode = none ∧ t.wstate = .closed ∧ t.finfo = 0 ∧ t.stream = [] ∧
      t.refused = false

/-- R35: the table of reset values, row by row. -/
def Obligations.ResetStateHoldsTheTable : Prop :=
  (∀ r : ArgReg, r ≠ .proto → State.reset.regs.get r = none) ∧ State.reset.regs.get .proto = some 6 ∧
  State.reset.bufA = none ∧ State.reset.bufY = none ∧ State.reset.csumr = none ∧
  State.reset.status = 0 ∧ State.reset.fcode = none ∧ State.reset.wstate = .closed ∧
  State.reset.finfo = 0 ∧ State.reset.stream = [] ∧ State.reset.refused = false

/-- The fields of STATUS (R28, R31, R271): FCODE in [7:0], WSTATE in [9:8], the reserved bits reading 0; WSTATE is never
3, FCODE never exceeds 8 and is 0 exactly without a fault, and each fault has its number. -/
def Obligations.StatusFieldsReadAsNumbered : Prop :=
  ∀ s : State,
    s.status.extractLsb' 10 22 = 0 ∧
    s.status.extractLsb' 8 2 = s.wstate.code ∧ s.wstate.code ≠ 3 ∧
    (s.wstate = .closed → s.wstate.code = 0) ∧ (s.wstate = .opened → s.wstate.code = 1) ∧
    (s.wstate = .header → s.wstate.code = 2) ∧
    s.status.extractLsb' 0 8 = s.fcodeBits ∧ s.fcodeBits.toNat ≤ 8 ∧
    (s.fcodeBits = 0 ↔ s.fcode = none) ∧
    (s.fcode = some .illegalCommand → s.fcodeBits = 1) ∧ (s.fcode = some .unwrittenOperand → s.fcodeBits = 2) ∧
    (s.fcode = some .lengthOverflow → s.fcodeBits = 3) ∧ (s.fcode = some .bufferOverflow → s.fcodeBits = 4) ∧
    (s.fcode = some .nonAscii → s.fcodeBits = 5) ∧ (s.fcode = some .sequence → s.fcodeBits = 6) ∧
    (s.fcode = some .timestampRange → s.fcodeBits = 7) ∧ (s.fcode = some .ioError → s.fcodeBits = 8)

/-! ## Faults -/

/-- R274: while a fault stands an ISSUE, of any word, is taken and discarded, and SET, LOAD_A and READ still work. -/
def Obligations.StandingFaultDiscardsEveryIssue : Prop :=
  ∀ (s : State) (f : FaultCode) (rest : List HostAction), s.fcode = some f →
    (∀ c, s.inbox = .issue c :: rest → step s = .next { s with inbox := rest }) ∧
    (∀ i v r, s.inbox = .set i v :: rest → ArgReg.index r = i.toNat → v < 2 ^ r.width →
      ∃ t, step s = .next t ∧ t.regs.get r = some v ∧
        (∀ q, q ≠ r → t.regs.get q = s.regs.get q) ∧ t = { s with inbox := rest, regs := t.regs }) ∧
    (∀ b, s.inbox = .loadA b :: rest → b.length ≤ Config.bufMax →
      step s = .next { s with inbox := rest, bufA := some b }) ∧
    (∀ x, s.inbox = .read x :: rest →
      step s = .next { s with inbox := rest, outbox := s.outbox ++ [s.readAnswer x] })

/-- R275: a standing fault is cleared by RESET and by nothing else; every other step keeps FCODE and FINFO. -/
def Obligations.OnlyResetClearsAFault : Prop :=
  ∀ (s t : State) (f : FaultCode), s.fcode = some f → step s = .next t →
    (s.inbox.head? = some .reset ∧ t.fcode = none ∧ t.finfo = 0) ∨
    (s.inbox.head? ≠ some .reset ∧ t.fcode = some f ∧ t.finfo = s.finfo)

/-- A command raises no fault but those R281 lists for it. -/
def Obligations.CommandsRaiseOnlyTheirListedFaults : Prop :=
  ∀ (i : Instr) (s t : State) (f : FaultCode),
    s.fcode = none → exec i s = .next t → t.fcode = some f → f ∈ Claims.possibleFaults i

/-- Fault entry (R273): when a command raises a fault, the registers, A, Y, CSUMR and WSTATE are unchanged, and STREAM is
unchanged but for an IO_ERROR, which keeps the `k` bytes the sink took of those offered and records `k`, after an
OPEN's emptying. -/
def Obligations.FaultEntryChangesNothingElse : Prop :=
  ∀ (i : Instr) (s t : State) (f : FaultCode),
    s.fcode = none → exec i s = .next t → t.fcode = some f →
    t.regs = s.regs ∧ t.bufA = s.bufA ∧ t.bufY = s.bufY ∧ t.csumr = s.csumr ∧ t.wstate = s.wstate ∧
    t.refused = s.refused ∧ t.everRefused = s.everRefused ∧ t.inbox = s.inbox ∧ t.outbox = s.outbox ∧
    (f ≠ .ioError → t.stream = s.stream) ∧
    (f = .ioError → ∃ k, k ≤ (Claims.offered i s).length ∧ t.finfo = infoWord k ∧
      t.stream = (if i = .openFile then [] else s.stream) ++ (Claims.offered i s).take k)

/-- FINFO holds the recorded number whenever it fits 32 bits (R272). Above that the spec states no value (log 6). -/
def Obligations.InfoWordHoldsTheNumber : Prop :=
  ∀ n : Nat, n < 2 ^ 32 → (infoWord n).toNat = n

/-- A command that reads `⊥` raises UNWRITTEN_OPERAND with the id of the first such operand in R24's order, once its
writer-state check has passed (R280), and does nothing else. -/
def Obligations.UnwrittenOperandIsReportedFirst : Prop :=
  ∀ (i : Instr) (s : State) (id : Nat), s.fcode = none →
    (∀ w, Claims.neededState i = some w → s.wstate = w) →
    (Claims.unwrittenIds i s).head? = some id →
    exec i s = .next { s with fcode := some .unwrittenOperand, finfo := BitVec.ofNat 32 id }

/-- A capture command in the wrong writer state raises SEQUENCE with FINFO the writer state, before any other check, and
appends nothing (R220, R272, R280). -/
def Obligations.WrongWriterStateRaisesSequence : Prop :=
  ∀ (i : Instr) (w : WState) (s : State), s.fcode = none →
    Claims.neededState i = some w → s.wstate ≠ w →
    exec i s = .next { s with
      fcode := some .sequence
      finfo := (match s.wstate with | .closed => 0 | .opened => 1 | .header => 2) }

/-! ## Frames and whole-machine rules -/

/-- R23: no command writes an argument register or buffer A, whether it succeeds, faults or is discarded; and the
header builders give the same Y for the same arguments. -/
def Obligations.CommandsNeverWriteTheirArguments : Prop :=
  (∀ (i : Instr) (s t : State), exec i s = .next t → t.regs = s.regs ∧ t.bufA = s.bufA) ∧
  (∀ (src : Buffer) (s s' t t' : State), s.regs = s'.regs → s.buffer src = s'.buffer src →
    s.fcode = none → s'.fcode = none →
    ∀ i ∈ [Instr.eth src, .ipv4 src, .tcp src], exec i s = .next t → exec i s' = .next t' → t.fcode = none →
      t'.bufY = t.bufY)

/-- The frame of CSUM, ETH, IPV4, TCP and FRAME: only CSUMR (CSUM) or Y (the others), FCODE and FINFO can change; STREAM
and the sink are untouched. -/
def Obligations.BuilderCommandsFrame : Prop :=
  ∀ (src : Buffer) (s t : State),
    (exec (.csum src) s = .next t →
      t = { s with csumr := t.csumr, fcode := t.fcode, finfo := t.finfo }) ∧
    (∀ i ∈ [Instr.eth src, .ipv4 src, .tcp src, .frame src], exec i s = .next t →
      t = { s with bufY := t.bufY, fcode := t.fcode, finfo := t.finfo })

/-- The frame of OPEN, GHDR, WREC and CLOSE: only STREAM, WSTATE, FCODE, FINFO and the sink's draws can change; CLOSE
leaves STREAM and WREC leaves WSTATE; the bytes of STREAM are those it had (none after an OPEN that ran) followed by
bytes of what the command offered. -/
def Obligations.WriterCommandsFrame : Prop :=
  ∀ (src : Buffer) (s t : State), ∀ i ∈ [Instr.openFile, .ghdr, .wrec src, .closeFile], exec i s = .next t →
    t = { s with stream := t.stream, wstate := t.wstate, fcode := t.fcode, finfo := t.finfo,
                 sinkScript := t.sinkScript, draws := t.draws } ∧
    (i = .wrec src → t.wstate = s.wstate) ∧
    (i = .closeFile → t.stream = s.stream) ∧
    (i = .openFile → t.stream = s.stream ∨ t.stream = []) ∧
    (i ≠ .openFile → ∃ k, t.stream = s.stream ++ (Claims.offered i s).take k)

/-- The builders are functions of their registers and operand (R67): issued in two states that agree on those, they
succeed together and give byte-identical results. -/
def Obligations.BuildersAreIdempotent : Prop :=
  ∀ (src : Buffer) (s s' t t' : State), s.regs = s'.regs → s.buffer src = s'.buffer src →
    s.fcode = none → s'.fcode = none →
    ∀ i ∈ [Instr.csum src, .eth src, .ipv4 src, .tcp src, .frame src],
      exec i s = .next t → exec i s' = .next t' →
      t.fcode = t'.fcode ∧ t.finfo = (if t.fcode = none then s.finfo else t'.finfo) ∧
      (t.fcode = none → (Claims.writesY i = true → t.bufY = t'.bufY) ∧
        (Claims.writesCsumr i = true → t.csumr = t'.csumr))

/-- Y and CSUMR are written by a successful builder and a successful CSUM, by RESET, and by nothing else (R26, R27). -/
def Obligations.OnlyTheirCommandsWriteYAndCsumr : Prop :=
  ∀ s t : State, step s = .next t →
    (t.bufY ≠ s.bufY → s.inbox.head? = some .reset ∨
      ∃ c i, s.inbox.head? = some (.issue c) ∧ decode c = .ok i ∧ Claims.writesY i = true ∧
        s.fcode = none ∧ t.fcode = none) ∧
    (t.csumr ≠ s.csumr → s.inbox.head? = some .reset ∨
      ∃ c i, s.inbox.head? = some (.issue c) ∧ decode c = .ok i ∧ Claims.writesCsumr i = true ∧
        s.fcode = none ∧ t.fcode = none)

/-- The writer state moves only CLOSED to OPENED by OPEN, OPENED to HEADER by GHDR and HEADER to CLOSED by CLOSE, each
without a fault, or to CLOSED by RESET (R220, R223, R310). -/
def Obligations.WriterStateMovesOnlyAsTabled : Prop :=
  ∀ s t : State, step s = .next t → t.wstate ≠ s.wstate →
    (s.inbox.head? = some .reset ∧ t.wstate = .closed) ∨
    (s.fcode = none ∧ t.fcode = none ∧
      ((s.inbox.head? = some (.issue 0x00000010) ∧ s.wstate = .closed ∧ t.wstate = .opened) ∨
       (s.inbox.head? = some (.issue 0x00000011) ∧ s.wstate = .opened ∧ t.wstate = .header) ∨
       (s.inbox.head? = some (.issue 0x00000013) ∧ s.wstate = .header ∧ t.wstate = .closed)))

/-- STREAM is append-only: no step removes or rewrites a byte of it but RESET and an OPEN in CLOSED (R32, R223). -/
def Obligations.StreamIsAppendOnly : Prop :=
  ∀ s t : State, step s = .next t → s.inbox.head? ≠ some .reset →
    ¬ (s.inbox.head? = some (.issue 0x00000010) ∧ s.wstate = .closed ∧ s.fcode = none) →
    s.stream <+: t.stream

/-- The invariant holds after reset. -/
def Obligations.InvariantHoldsAtReset : Prop := State.reset.Inv

/-- Every step keeps the invariant: the buffers within `P_BUF_MAX`, PROTO written, FINFO 0 without a fault, and STREAM
nothing, a capture file or a prefix of one as WSTATE and FCODE say (R25, R26, R29, R165, R220, R223). -/
def Obligations.EveryStepKeepsTheInvariant : Prop :=
  ∀ s t : State, s.Inv → step s = .next t → t.Inv

/-! ## Checksum -/

/-- CSUM (R140): with its operand written it writes the checksum to CSUMR and changes nothing else. -/
def Obligations.CsumWritesTheChecksum : Prop :=
  ∀ (src : Buffer) (s : State) (b : List Byte), s.fcode = none → s.buffer src = some b →
    exec (.csum src) s = .next { s with csumr := some (checksum b) }

/-- R142: the fold loop ends, each fold making a sum of 0x10000 or more smaller and keeping it modulo 0xFFFF; `w` words
sum to at most `w * 0xFFFF`, which one fold brings to at most `(w * 0xFFFF >> 16) + 0xFFFF`, and for `w <= 0x10000` two
folds are enough; for `w = 10` the first fold can still exceed 0xFFFF. -/
def Obligations.FoldLoopEnds : Prop :=
  (∀ S, 0x10000 ≤ S → foldOnce S < S) ∧
  (∀ S, foldOnce S % 0xFFFF = S % 0xFFFF) ∧
  (∀ S, foldSum S = if 0x10000 ≤ S then foldSum (foldOnce S) else S) ∧
  (∀ S, foldSum S ≤ 0xFFFF ∧ foldSum S % 0xFFFF = S % 0xFFFF) ∧
  (∀ b : List Byte, wordSum b ≤ (beWords (padEven b)).length * 0xFFFF) ∧
  (∀ w S, S ≤ w * 0xFFFF → foldOnce S ≤ (w * 0xFFFF) / 2 ^ 16 + 0xFFFF) ∧
  (∀ w S, w ≤ 0x10000 → S ≤ w * 0xFFFF → foldOnce (foldOnce S) ≤ 0xFFFF) ∧
  0x5FFFF ≤ 10 * 0xFFFF ∧ foldOnce 0x5FFFF = 0x10004 ∧ foldOnce 0x10004 = 0x0005

/-- R143: the range of the checksum. -/
def Obligations.ChecksumRange : Prop :=
  ∀ b : List Byte,
    (foldSum (wordSum b) = 0 ↔ wordSum b = 0) ∧ (wordSum b = 0 ↔ ∀ x ∈ b, x = 0) ∧
    (wordSum b ≠ 0 → 1 ≤ foldSum (wordSum b) ∧ foldSum (wordSum b) ≤ 0xFFFF ∧
      foldSum (wordSum b) % 0xFFFF = wordSum b % 0xFFFF ∧
      ∀ v, 1 ≤ v → v ≤ 0xFFFF → v % 0xFFFF = wordSum b % 0xFFFF → v = foldSum (wordSum b)) ∧
    (checksum b = 0xFFFF ↔ ∀ x ∈ b, x = 0) ∧
    ((∃ x ∈ b, x ≠ 0) → (checksum b).toNat ≤ 0xFFFE) ∧
    (checksum b = 0x0000 ↔ (∃ x ∈ b, x ≠ 0) ∧ wordSum b % 0xFFFF = 0)

/-- R144: appending one zero byte never changes the checksum, and prepending one can. -/
def Obligations.AppendedZeroKeepsTheChecksum : Prop :=
  (∀ b : List Byte, checksum (b ++ [0x00]) = checksum b) ∧
  (∃ b : List Byte, checksum (0x00 :: b) ≠ checksum b)

/-- R145: the checksum does not depend on the order of the words, and equals that of a 16-bit accumulator with
end-around carry; both forms give 0 only for an all-zero sum and otherwise the value in 1 to 0xFFFF congruent to it. -/
def Obligations.ChecksumIsEndAroundCarry : Prop :=
  (∀ b b' : List Byte, (beWords (padEven b)).Perm (beWords (padEven b')) → checksum b = checksum b') ∧
  (∀ b : List Byte, endAroundSum b = foldSum (wordSum b) ∧ (checksum b).toNat = 0xFFFF - endAroundSum b ∧
    (endAroundSum b = 0 ↔ wordSum b = 0) ∧
    (wordSum b ≠ 0 → 1 ≤ endAroundSum b ∧ endAroundSum b ≤ 0xFFFF ∧ endAroundSum b % 0xFFFF = wordSum b % 0xFFFF))

/-- R146: the self-verification law of every IPv4 header the engine can build. -/
def Obligations.CompletedHeaderVerifies : Prop :=
  ∀ (ipId : BitVec 16) (src dst : BitVec 32) (proto : BitVec 8) (tl : BitVec 16),
    let c0 := checksum (ipv4Header ipId src dst proto tl 0)
    (ipv4Header ipId src dst proto tl c0).length = 20 ∧ c0.toNat ≤ 0xFFFE ∧
    foldSum (wordSum (ipv4Header ipId src dst proto tl c0)) = 0xFFFF ∧
    checksum (ipv4Header ipId src dst proto tl c0) = 0x0000

/-! ## Header builders -/

/-- ETH (R160, R161): with its operands written and a result that fits, it writes Y as the two addresses, `08 00` and the
operand, unpadded, and changes nothing else. -/
def Obligations.EthWritesTheFrame : Prop :=
  ∀ (src : Buffer) (s : State) (b : List Byte) (d m : BitVec 48), s.fcode = none →
    s.buffer src = some b → s.regs.dmac = some d → s.regs.smac = some m →
    b.length + 14 ≤ Config.bufMax →
    exec (.eth src) s = .next { s with bufY := some (be48 d ++ be48 m ++ [0x08, 0x00] ++ b) }

/-- IPV4 (R165 to R169): with its operands written and a payload of at most 65515 bytes, it writes Y as the 20-byte
header, field by field, its checksum that of the header with a zero checksum field, then the operand. -/
def Obligations.Ipv4WritesThePacket : Prop :=
  ∀ (src : Buffer) (s : State) (b : List Byte) (sip dip : BitVec 32) (proto : BitVec 8), s.fcode = none →
    s.buffer src = some b → s.regs.sip = some sip → s.regs.dip = some dip → s.regs.proto = some proto →
    b.length ≤ 65515 →
    let header : BitVec 16 → List Byte := fun x =>
      [0x45, 0x00] ++ be16 (BitVec.ofNat 16 (20 + b.length)) ++ be16 Config.ipId ++ [0x40, 0x00] ++
      [0x40, proto] ++ be16 x ++ be32 sip ++ be32 dip
    exec (.ipv4 src) s = .next { s with bufY := some (header (checksum (header 0)) ++ b) }

/-- TCP (R170 to R174): with its operands written and a result that fits, it writes Y as the 20-byte header, field by
field, its checksum field zero and its flags byte as given, then the operand. -/
def Obligations.TcpWritesTheSegment : Prop :=
  ∀ (src : Buffer) (s : State) (b : List Byte) (sp dp : BitVec 16) (seq ack : BitVec 32) (fl : BitVec 8),
    s.fcode = none → s.buffer src = some b → s.regs.sport = some sp → s.regs.dport = some dp →
    s.regs.seq = some seq → s.regs.ack = some ack → s.regs.tflags = some fl →
    b.length + 20 ≤ Config.bufMax →
    let segment : List Byte :=
      be16 sp ++ be16 dp ++ be32 seq ++ be32 ack ++ [0x50, fl, 0xFF, 0xFF, 0x00, 0x00, 0x00, 0x00] ++ b
    exec (.tcp src) s = .next { s with bufY := some segment }

/-- A result longer than `P_BUF_MAX` makes ETH and TCP raise BUFFER_OVERFLOW with the length it would have had, Y
unchanged (R160, R170, R271, R272). -/
def Obligations.OverlongResultRaisesBufferOverflow : Prop :=
  ∀ (src : Buffer) (s : State) (b : List Byte), s.fcode = none → s.buffer src = some b →
    (s.regs.dmac ≠ none → s.regs.smac ≠ none → Config.bufMax < b.length + 14 →
      exec (.eth src) s = .next { s with fcode := some .bufferOverflow, finfo := infoWord (b.length + 14) }) ∧
    (s.regs.sport ≠ none → s.regs.dport ≠ none → s.regs.seq ≠ none → s.regs.ack ≠ none →
      s.regs.tflags ≠ none → Config.bufMax < b.length + 20 →
      exec (.tcp src) s = .next { s with fcode := some .bufferOverflow, finfo := infoWord (b.length + 20) })

/-- R175: the length laws of a successful IPV4. -/
def Obligations.Ipv4LengthLaws : Prop :=
  ∀ (src : Buffer) (s t : State) (b : List Byte), s.fcode = none → s.buffer src = some b →
    exec (.ipv4 src) s = .next t → t.fcode = none →
    ∃ y, t.bufY = some y ∧ y.length = 20 + b.length ∧ packBytes ((y.drop 2).take 2) = 20 + b.length

/-- R176: the length law of a successful TCP. -/
def Obligations.TcpLengthLaw : Prop :=
  ∀ (src : Buffer) (s t : State) (b : List Byte), s.fcode = none → s.buffer src = some b →
    exec (.tcp src) s = .next t → t.fcode = none →
    ∃ y, t.bufY = some y ∧ y.length = 20 + b.length ∧ y.drop 20 = b

/-- The encoders of R10 and the packing of R22: big-endian bytes read back most significant first, little-endian bytes
least significant first, and the packed number of four (six) written bytes encodes to those bytes in written order. -/
def Obligations.EncodersKeepWrittenOrder : Prop :=
  (∀ v : BitVec 16, packBytes (be16 v) = v.toNat ∧ leNat (le16 v) = v.toNat) ∧
  (∀ v : BitVec 32, packBytes (be32 v) = v.toNat ∧ leNat (le32 v) = v.toNat) ∧
  (∀ v : BitVec 48, packBytes (be48 v) = v.toNat) ∧
  (∀ a b c d : Byte, be32 (BitVec.ofNat 32 (a.toNat * 2 ^ 24 + b.toNat * 2 ^ 16 + c.toNat * 2 ^ 8 + d.toNat))
    = [a, b, c, d]) ∧
  (∀ m0 m1 m2 m3 m4 m5 : Byte,
    be48 (BitVec.ofNat 48 (m0.toNat * 2 ^ 40 + m1.toNat * 2 ^ 32 + m2.toNat * 2 ^ 24 + m3.toNat * 2 ^ 16
      + m4.toNat * 2 ^ 8 + m5.toNat)) = [m0, m1, m2, m3, m4, m5])

/-! ## Packet assembler -/

/-- FRAME (R200 to R203): with its operands written, a 7-bit payload of at most 65495 bytes, it writes Y as the Ethernet
frame, with the parameters' addresses, of the IPv4 packet, with protocol 6, of the TCP segment of the payload, and
changes nothing else. -/
def Obligations.FrameWritesTheFrame : Prop :=
  ∀ (src : Buffer) (s : State) (b : List Byte) (sip dip : BitVec 32) (sp dp : BitVec 16) (seq ack : BitVec 32)
    (fl : BitVec 8), s.fcode = none → s.buffer src = some b →
    s.regs.sip = some sip → s.regs.dip = some dip → s.regs.sport = some sp → s.regs.dport = some dp →
    s.regs.seq = some seq → s.regs.ack = some ack → s.regs.tflags = some fl →
    (∀ x ∈ b, x.toNat < 0x80) → b.length ≤ 65495 →
    let segment := buildTCP sp dp seq ack fl b
    let packet := ipv4Packet Config.ipId sip dip 6 segment
    exec (.frame src) s = .next { s with
      bufY := some (buildEthernet Config.frameDmac Config.frameSmac packet) }

/-- R201: the least index of a byte of 0x80 or more is reported by NON_ASCII, and nothing is written. -/
def Obligations.NonAsciiPayloadIsReported : Prop :=
  ∀ (src : Buffer) (s : State) (b : List Byte) (k : Nat) (x : Byte), s.fcode = none → s.buffer src = some b →
    (∀ r ∈ Claims.regsRead (.frame src), s.regs.get r ≠ none) →
    b[k]? = some x → 0x80 ≤ x.toNat → (∀ j y, j < k → b[j]? = some y → y.toNat < 0x80) →
    exec (.frame src) s = .next { s with fcode := some .nonAscii, finfo := infoWord k }

/-- A payload longer than 65515 bytes makes IPV4 raise LENGTH_OVERFLOW with the payload's length, and a 7-bit payload
longer than 65495 bytes makes FRAME raise it with the TCP segment's length; Y is unchanged, and the total length never
wraps (R167, R200, R272). -/
def Obligations.OverlongPayloadRaisesLengthOverflow : Prop :=
  ∀ (src : Buffer) (s : State) (b : List Byte), s.fcode = none → s.buffer src = some b →
    ((∀ r ∈ Claims.regsRead (.ipv4 src), s.regs.get r ≠ none) → 65515 < b.length →
      exec (.ipv4 src) s = .next { s with fcode := some .lengthOverflow, finfo := infoWord b.length }) ∧
    ((∀ r ∈ Claims.regsRead (.frame src), s.regs.get r ≠ none) → (∀ x ∈ b, x.toNat < 0x80) → 65495 < b.length →
      exec (.frame src) s = .next { s with fcode := some .lengthOverflow, finfo := infoWord (b.length + 20) })

/-- R204: the length law of a successful FRAME, and its IPv4 total-length field. -/
def Obligations.FrameLengthLaw : Prop :=
  ∀ (src : Buffer) (s t : State) (b : List Byte), s.fcode = none → s.buffer src = some b →
    exec (.frame src) s = .next t → t.fcode = none →
    ∃ y, t.bufY = some y ∧ y.length = 14 + 20 + 20 + b.length ∧ packBytes ((y.drop 16).take 2) = 40 + b.length

/-- R205: FRAME and the chain TCP, IPV4.Y, ETH.Y leave the same Y. -/
def Obligations.FrameEqualsTheExplicitChain : Prop :=
  ∀ (s : State) (b : List Byte), s.fcode = none → s.bufA = some b →
    s.regs.proto = some 6 → s.regs.dmac = some Config.frameDmac → s.regs.smac = some Config.frameSmac →
    (∀ r ∈ Claims.regsRead (.frame .a), s.regs.get r ≠ none) →
    (∀ x ∈ b, x.toNat < 0x80) → b.length ≤ 65495 →
    ∃ f t₁ t₂ t₃ y, exec (.frame .a) s = .next f ∧ exec (.tcp .a) s = .next t₁ ∧
      exec (.ipv4 .y) t₁ = .next t₂ ∧ exec (.eth .y) t₂ = .next t₃ ∧
      f.fcode = none ∧ t₃.fcode = none ∧ f.bufY = some y ∧ t₃.bufY = some y

/-- FRAME does not depend on DMAC, SMAC, PROTO or TS: its addresses are the parameters and its protocol is 6 (R202,
R203). -/
def Obligations.FrameIgnoresOtherRegisters : Prop :=
  ∀ (src : Buffer) (s t : State) (d m : Option (BitVec 48)) (p : Option (BitVec 8)) (ts : Option (BitVec 64)),
    exec (.frame src) s = .next t →
    exec (.frame src) { s with regs := { s.regs with dmac := d, smac := m, proto := p, ts := ts } }
      = .next { t with regs := { s.regs with dmac := d, smac := m, proto := p, ts := ts } } ∧
    (s.fcode = none → t.fcode = none → ∃ y, t.bufY = some y ∧
      y.take 6 = be48 Config.frameDmac ∧ (y.drop 6).take 6 = be48 Config.frameSmac ∧ y[23]? = some 6)

/-! ## Capture writer -/

/-- OPEN (R221): in CLOSED, with the sink answering OK, it empties STREAM and moves to OPENED. -/
def Obligations.OpenStartsAFile : Prop :=
  ∀ s : State, s.fcode = none → s.wstate = .closed → s.sinkAnswer = .ok →
    exec .openFile s = .next { s with
      stream := [], wstate := .opened, sinkScript := s.sinkScript.tail, draws := s.draws + 1 }

/-- GHDR (R228, R230): in OPENED, with the sink answering OK, it appends the 24 bytes of the global header and moves to
HEADER. -/
def Obligations.GhdrAppendsTheGlobalHeader : Prop :=
  ∀ s : State, s.fcode = none → s.wstate = .opened → s.sinkAnswer = .ok →
    exec .ghdr s = .next { s with
      stream := s.stream ++ [0xD4, 0xC3, 0xB2, 0xA1, 0x02, 0x00, 0x04, 0x00, 0x00, 0x00, 0x00, 0x00,
        0x00, 0x00, 0x00, 0x00, 0xFF, 0xFF, 0x00, 0x00, 0x01, 0x00, 0x00, 0x00]
      wstate := .header, sinkScript := s.sinkScript.tail, draws := s.draws + 1 }

/-- WREC (R240, R242, R244, R246): in HEADER, with its operands written, an accepted timestamp and the sink answering
OK, it appends the record: seconds, microseconds, the length twice, the bytes untruncated. -/
def Obligations.WrecAppendsTheRecord : Prop :=
  ∀ (src : Buffer) (s : State) (b : List Byte) (ts : BitVec 64), s.fcode = none → s.wstate = .header →
    s.buffer src = some b → s.regs.ts = some ts → timestampOk ts = true → s.sinkAnswer = .ok →
    exec (.wrec src) s = .next { s with
      stream := s.stream ++ le32 (BitVec.ofNat 32 (wholeSeconds ts)) ++ le32 (BitVec.ofNat 32 (microseconds ts))
        ++ le32 (BitVec.ofNat 32 b.length) ++ le32 (BitVec.ofNat 32 b.length) ++ b
      sinkScript := s.sinkScript.tail, draws := s.draws + 1 }

/-- CLOSE (R250): in HEADER, with the sink answering OK, it moves to CLOSED and keeps STREAM. -/
def Obligations.CloseCompletesTheFile : Prop :=
  ∀ s : State, s.fcode = none → s.wstate = .header → s.sinkAnswer = .ok →
    exec .closeFile s = .next { s with
      wstate := .closed, sinkScript := s.sinkScript.tail, draws := s.draws + 1 }

/-- A sink failure raises IO_ERROR with the number of bytes taken (0 for OPEN and CLOSE), keeps the prefix taken, and
leaves WSTATE (R66, R221, R223, R250, R272). -/
def Obligations.SinkFailureKeepsThePrefix : Prop :=
  ∀ (s : State) (k : Nat), s.fcode = none → s.sinkAnswer = .fail k →
    (s.wstate = .closed → exec .openFile s = .next { s with
      stream := [], fcode := some .ioError, finfo := 0,
      sinkScript := s.sinkScript.tail, draws := s.draws + 1 }) ∧
    (s.wstate = .header → exec .closeFile s = .next { s with
      fcode := some .ioError, finfo := 0, sinkScript := s.sinkScript.tail, draws := s.draws + 1 }) ∧
    (s.wstate = .opened → k ≤ 24 → exec .ghdr s = .next { s with
      stream := s.stream ++ globalHeader.take k, fcode := some .ioError, finfo := BitVec.ofNat 32 k,
      sinkScript := s.sinkScript.tail, draws := s.draws + 1 }) ∧
    (∀ src b ts, s.wstate = .header → s.buffer src = some b → s.regs.ts = some ts → timestampOk ts = true →
      k ≤ 16 + b.length → exec (.wrec src) s = .next { s with
        stream := s.stream ++ (recordBytes (BitVec.ofNat 32 (wholeSeconds ts))
          (BitVec.ofNat 32 (microseconds ts)) b).take k
        fcode := some .ioError, finfo := infoWord k,
        sinkScript := s.sinkScript.tail, draws := s.draws + 1 })

/-- A timestamp out of range makes WREC raise TIMESTAMP_RANGE with bits [63:32] of TS, and append nothing (R241, R272). -/
def Obligations.TimestampOutOfRangeIsReported : Prop :=
  ∀ (src : Buffer) (s : State) (ts : BitVec 64), s.fcode = none → s.wstate = .header →
    s.buffer src ≠ none → s.regs.ts = some ts → timestampOk ts = false →
    exec (.wrec src) s = .next { s with fcode := some .timestampRange, finfo := ts.extractLsb' 32 32 }

/-- Which binary64 patterns R241 accepts: exactly −0.0 and the patterns below that of 2^32. -/
def Obligations.AcceptedTimestampsAreAnInterval : Prop :=
  ∀ ts : BitVec 64, timestampOk ts = true ↔ ts = 0x8000000000000000 ∨ ts.toNat < 0x41F0000000000000

/-- R243: the microseconds of every accepted timestamp are 0 to 999999; 1.000001 gives (1, 0) and 2.675 gives
(2, 674999). -/
def Obligations.MicrosecondsStayBelowAMillion : Prop :=
  (∀ ts : BitVec 64, timestampOk ts = true → microseconds ts ≤ 999999 ∧ wholeSeconds ts ≤ 2 ^ 32 - 1) ∧
  splitTimestamp 0x3FF000010C6F7A0B = .ok (1, 0) ∧
  splitTimestamp 0x4005666666666666 = .ok (2, 674999)

/-- The rounding of R242 is to nearest, ties to even, at 53 significant bits: the result is a whole number of units of
the last place, no other such number is nearer, and a tie goes to the even one. -/
def Obligations.RoundingIsNearestEven : Prop :=
  ∀ n : Nat, let u := 2 ^ (n.log2 - 52)
    ∃ q, round64 n 1 = q * u ∧ q ≤ 2 ^ 53 ∧
      2 * (max n (q * u) - min n (q * u)) ≤ u ∧
      (2 * (max n (q * u) - min n (q * u)) = u → q % 2 = 0)

/-- R247: reading back the bytes of a completed file gives its records, in order, each with its `(secs, us)` and its
bytes. -/
def Obligations.CompletedFileReadsBack : Prop :=
  ∀ rs : List CaptureRecord, (∀ r ∈ rs, r.valid) → readCapture (captureFile rs) = some rs

/-- R247, R68: in a good state whose STREAM is the file of some records, a WREC that succeeds makes it the file of those
records and one more, with the operand's bytes and the split timestamp, so that records stand in issue order. -/
def Obligations.WrecAddsOneRecordAtTheEnd : Prop :=
  ∀ (src : Buffer) (s t : State) (rs : List CaptureRecord), s.Inv → s.fcode = none → s.stream = captureFile rs →
    (∀ r ∈ rs, r.valid) → exec (.wrec src) s = .next t → t.fcode = none →
    ∃ b ts r, s.buffer src = some b ∧ s.regs.ts = some ts ∧ r.valid ∧ r.data = b ∧
      r.secs.toNat = wholeSeconds ts ∧ r.us.toNat = microseconds ts ∧
      t.stream = captureFile (rs ++ [r]) ∧ readCapture t.stream = some (rs ++ [r])

/-! ## Assembler -/

/-- R101: the expansions of the three pseudo-instructions, as issued words. -/
def Obligations.PseudoInstructionsExpand : Prop :=
  Pseudo.fileBegin.expand.map issueOf = [.issue 0x00000010, .issue 0x00000011] ∧
  Pseudo.emit.expand.map issueOf = [.issue 0x00000005, .issue 0x00000112] ∧
  Pseudo.fileEnd.expand.map issueOf = [.issue 0x00000013]
end

