-- ==== Sys2Proof/Laws/Bytes.lean ====
section
/-! SUPPORT. The lengths of what the encoders and builders produce, and the bytes an encoder picks. -/

namespace Sys2Proof.Machine

/-- The `i`-th byte of a value is its `i`-th digit in base 256. -/
theorem byteAt_toNat {w : Nat} (v : BitVec w) (i : Nat) : (byteAt v i).toNat = v.toNat / 256 ^ i % 256 := by
  simp only [byteAt, BitVec.extractLsb'_toNat, Nat.shiftRight_eq_div_pow]
  rw [show (2 : Nat) ^ (8 * i) = 256 ^ i by rw [Nat.pow_mul]]

@[simp] theorem be16_length (v : BitVec 16) : (be16 v).length = 2 := rfl
@[simp] theorem be32_length (v : BitVec 32) : (be32 v).length = 4 := rfl
@[simp] theorem be48_length (v : BitVec 48) : (be48 v).length = 6 := rfl
@[simp] theorem le16_length (v : BitVec 16) : (le16 v).length = 2 := rfl
@[simp] theorem le32_length (v : BitVec 32) : (le32 v).length = 4 := rfl

/-- R161: the result length of the framer. -/
theorem buildEthernet_length (d m : BitVec 48) (p : List Byte) : (buildEthernet d m p).length = 14 + p.length := by
  simp only [buildEthernet, List.length_append, be48_length, be16_length]

/-- R166: the header is always 20 bytes. -/
@[simp] theorem ipv4Header_length (ipId : BitVec 16) (src dst : BitVec 32) (proto : BitVec 8) (tl x : BitVec 16) :
    (ipv4Header ipId src dst proto tl x).length = 20 := rfl

/-- R167: the packet is 20 bytes longer than its payload. -/
theorem ipv4Packet_length (ipId : BitVec 16) (src dst : BitVec 32) (proto : BitVec 8) (p : List Byte) :
    (ipv4Packet ipId src dst proto p).length = 20 + p.length := by
  simp only [ipv4Packet, List.length_append, ipv4Header_length]

/-- R171: the result length of the TCP builder. -/
theorem buildTCP_length (sp dp : BitVec 16) (seq ack : BitVec 32) (fl : BitVec 8) (p : List Byte) :
    (buildTCP sp dp seq ack fl p).length = 20 + p.length := by
  simp only [buildTCP, List.length_append, be16_length, be32_length, List.length_cons, List.length_nil]

/-- R230: the header is 24 bytes. -/
@[simp] theorem globalHeader_length : globalHeader.length = 24 := rfl

/-- R244: a record is its 16-byte header and the frame. -/
theorem recordBytes_length (secs us : BitVec 32) (b : List Byte) : (recordBytes secs us b).length = 16 + b.length := by
  simp only [recordBytes, List.length_append, le32_length]

end Sys2Proof.Machine
end

