-- ==== Sys2Proof/Laws/Checksum.lean ====
section
/-! SUPPORT. The small lemmas of the checksum's parts: the padding, the words, one fold as plain arithmetic. -/

namespace Sys2Proof.Machine

/-- A fold is the sum of the two halves. -/
theorem foldOnce_eq (S : Nat) : foldOnce S = S / 65536 + S % 65536 := by
  unfold foldOnce
  rw [Nat.shiftRight_eq_div_pow, show (0xFFFF : Nat) = 2 ^ 16 - 1 by norm_num, Nat.and_two_pow_sub_one_eq_mod]

theorem padEven_of_even {b : List Byte} (h : b.length % 2 = 0) : padEven b = b := if_neg (by omega)

theorem padEven_of_odd {b : List Byte} (h : b.length % 2 = 1) : padEven b = b ++ [0] := if_pos h

/-- The padded sequence has even length. -/
theorem padEven_length (b : List Byte) : (padEven b).length % 2 = 0 := by
  rcases Nat.mod_two_eq_zero_or_one b.length with h | h
  · rw [padEven_of_even h, h]
  · rw [padEven_of_odd h, List.length_append, List.length_singleton]; omega

/-- The words of two sequences in a row, the first of even length. -/
theorem beWords_append : ∀ b c : List Byte, b.length % 2 = 0 → beWords (b ++ c) = beWords b ++ beWords c
  | [], _, _ => rfl
  | [_], _, h => by simp at h
  | x :: y :: rest, c, h => by
    simp only [List.cons_append, beWords]
    rw [beWords_append rest c (by simp only [List.length_cons] at h; omega)]

/-- Every word fits 16 bits. -/
theorem beWords_le : ∀ (b : List Byte) (w : Nat), w ∈ beWords b → w ≤ 0xFFFF
  | [], _, h => by simp [beWords] at h
  | [_], _, h => by simp [beWords] at h
  | x :: y :: rest, w, h => by
    rcases List.mem_cons.mp h with rfl | h
    · have := x.isLt; have := y.isLt; omega
    · exact beWords_le rest w h

end Sys2Proof.Machine
end

