-- ==== Sys2Proof/Laws/State.lean ====
section
/-! SUPPORT. What each update of Machine/Ops does to each field of the state: one lemma per field per update, true by rfl,
so that no proof unfolds a record update. -/

namespace Sys2Proof.Machine

variable (s : State)

/-! ## withReg -/

@[simp] theorem State.withReg_regs (r : ArgReg) (v : Nat) : (s.withReg r v).regs = s.regs.set r v := rfl
@[simp] theorem State.withReg_bufA (r : ArgReg) (v : Nat) : (s.withReg r v).bufA = s.bufA := rfl
@[simp] theorem State.withReg_bufY (r : ArgReg) (v : Nat) : (s.withReg r v).bufY = s.bufY := rfl
@[simp] theorem State.withReg_csumr (r : ArgReg) (v : Nat) : (s.withReg r v).csumr = s.csumr := rfl
@[simp] theorem State.withReg_fcode (r : ArgReg) (v : Nat) : (s.withReg r v).fcode = s.fcode := rfl
@[simp] theorem State.withReg_wstate (r : ArgReg) (v : Nat) : (s.withReg r v).wstate = s.wstate := rfl
@[simp] theorem State.withReg_finfo (r : ArgReg) (v : Nat) : (s.withReg r v).finfo = s.finfo := rfl
@[simp] theorem State.withReg_stream (r : ArgReg) (v : Nat) : (s.withReg r v).stream = s.stream := rfl
@[simp] theorem State.withReg_refused (r : ArgReg) (v : Nat) : (s.withReg r v).refused = s.refused := rfl
@[simp] theorem State.withReg_everRefused (r : ArgReg) (v : Nat) : (s.withReg r v).everRefused = s.everRefused := rfl
@[simp] theorem State.withReg_inbox (r : ArgReg) (v : Nat) : (s.withReg r v).inbox = s.inbox := rfl
@[simp] theorem State.withReg_outbox (r : ArgReg) (v : Nat) : (s.withReg r v).outbox = s.outbox := rfl
@[simp] theorem State.withReg_sinkScript (r : ArgReg) (v : Nat) : (s.withReg r v).sinkScript = s.sinkScript := rfl
@[simp] theorem State.withReg_draws (r : ArgReg) (v : Nat) : (s.withReg r v).draws = s.draws := rfl

/-! ## withA -/

@[simp] theorem State.withA_regs (b : List Byte) : (s.withA b).regs = s.regs := rfl
@[simp] theorem State.withA_bufA (b : List Byte) : (s.withA b).bufA = some b := rfl
@[simp] theorem State.withA_bufY (b : List Byte) : (s.withA b).bufY = s.bufY := rfl
@[simp] theorem State.withA_csumr (b : List Byte) : (s.withA b).csumr = s.csumr := rfl
@[simp] theorem State.withA_fcode (b : List Byte) : (s.withA b).fcode = s.fcode := rfl
@[simp] theorem State.withA_wstate (b : List Byte) : (s.withA b).wstate = s.wstate := rfl
@[simp] theorem State.withA_finfo (b : List Byte) : (s.withA b).finfo = s.finfo := rfl
@[simp] theorem State.withA_stream (b : List Byte) : (s.withA b).stream = s.stream := rfl
@[simp] theorem State.withA_refused (b : List Byte) : (s.withA b).refused = s.refused := rfl
@[simp] theorem State.withA_everRefused (b : List Byte) : (s.withA b).everRefused = s.everRefused := rfl
@[simp] theorem State.withA_inbox (b : List Byte) : (s.withA b).inbox = s.inbox := rfl
@[simp] theorem State.withA_outbox (b : List Byte) : (s.withA b).outbox = s.outbox := rfl
@[simp] theorem State.withA_sinkScript (b : List Byte) : (s.withA b).sinkScript = s.sinkScript := rfl
@[simp] theorem State.withA_draws (b : List Byte) : (s.withA b).draws = s.draws := rfl

/-! ## withY -/

@[simp] theorem State.withY_regs (b : List Byte) : (s.withY b).regs = s.regs := rfl
@[simp] theorem State.withY_bufA (b : List Byte) : (s.withY b).bufA = s.bufA := rfl
@[simp] theorem State.withY_bufY (b : List Byte) : (s.withY b).bufY = some b := rfl
@[simp] theorem State.withY_csumr (b : List Byte) : (s.withY b).csumr = s.csumr := rfl
@[simp] theorem State.withY_fcode (b : List Byte) : (s.withY b).fcode = s.fcode := rfl
@[simp] theorem State.withY_wstate (b : List Byte) : (s.withY b).wstate = s.wstate := rfl
@[simp] theorem State.withY_finfo (b : List Byte) : (s.withY b).finfo = s.finfo := rfl
@[simp] theorem State.withY_stream (b : List Byte) : (s.withY b).stream = s.stream := rfl
@[simp] theorem State.withY_refused (b : List Byte) : (s.withY b).refused = s.refused := rfl
@[simp] theorem State.withY_everRefused (b : List Byte) : (s.withY b).everRefused = s.everRefused := rfl
@[simp] theorem State.withY_inbox (b : List Byte) : (s.withY b).inbox = s.inbox := rfl
@[simp] theorem State.withY_outbox (b : List Byte) : (s.withY b).outbox = s.outbox := rfl
@[simp] theorem State.withY_sinkScript (b : List Byte) : (s.withY b).sinkScript = s.sinkScript := rfl
@[simp] theorem State.withY_draws (b : List Byte) : (s.withY b).draws = s.draws := rfl

/-! ## withCsumr -/

@[simp] theorem State.withCsumr_regs (v : BitVec 16) : (s.withCsumr v).regs = s.regs := rfl
@[simp] theorem State.withCsumr_bufA (v : BitVec 16) : (s.withCsumr v).bufA = s.bufA := rfl
@[simp] theorem State.withCsumr_bufY (v : BitVec 16) : (s.withCsumr v).bufY = s.bufY := rfl
@[simp] theorem State.withCsumr_csumr (v : BitVec 16) : (s.withCsumr v).csumr = some v := rfl
@[simp] theorem State.withCsumr_fcode (v : BitVec 16) : (s.withCsumr v).fcode = s.fcode := rfl
@[simp] theorem State.withCsumr_wstate (v : BitVec 16) : (s.withCsumr v).wstate = s.wstate := rfl
@[simp] theorem State.withCsumr_finfo (v : BitVec 16) : (s.withCsumr v).finfo = s.finfo := rfl
@[simp] theorem State.withCsumr_stream (v : BitVec 16) : (s.withCsumr v).stream = s.stream := rfl
@[simp] theorem State.withCsumr_refused (v : BitVec 16) : (s.withCsumr v).refused = s.refused := rfl
@[simp] theorem State.withCsumr_everRefused (v : BitVec 16) : (s.withCsumr v).everRefused = s.everRefused := rfl
@[simp] theorem State.withCsumr_inbox (v : BitVec 16) : (s.withCsumr v).inbox = s.inbox := rfl
@[simp] theorem State.withCsumr_outbox (v : BitVec 16) : (s.withCsumr v).outbox = s.outbox := rfl
@[simp] theorem State.withCsumr_sinkScript (v : BitVec 16) : (s.withCsumr v).sinkScript = s.sinkScript := rfl
@[simp] theorem State.withCsumr_draws (v : BitVec 16) : (s.withCsumr v).draws = s.draws := rfl

/-! ## withWState -/

@[simp] theorem State.withWState_regs (w : WState) : (s.withWState w).regs = s.regs := rfl
@[simp] theorem State.withWState_bufA (w : WState) : (s.withWState w).bufA = s.bufA := rfl
@[simp] theorem State.withWState_bufY (w : WState) : (s.withWState w).bufY = s.bufY := rfl
@[simp] theorem State.withWState_csumr (w : WState) : (s.withWState w).csumr = s.csumr := rfl
@[simp] theorem State.withWState_fcode (w : WState) : (s.withWState w).fcode = s.fcode := rfl
@[simp] theorem State.withWState_wstate (w : WState) : (s.withWState w).wstate = w := rfl
@[simp] theorem State.withWState_finfo (w : WState) : (s.withWState w).finfo = s.finfo := rfl
@[simp] theorem State.withWState_stream (w : WState) : (s.withWState w).stream = s.stream := rfl
@[simp] theorem State.withWState_refused (w : WState) : (s.withWState w).refused = s.refused := rfl
@[simp] theorem State.withWState_everRefused (w : WState) : (s.withWState w).everRefused = s.everRefused := rfl
@[simp] theorem State.withWState_inbox (w : WState) : (s.withWState w).inbox = s.inbox := rfl
@[simp] theorem State.withWState_outbox (w : WState) : (s.withWState w).outbox = s.outbox := rfl
@[simp] theorem State.withWState_sinkScript (w : WState) : (s.withWState w).sinkScript = s.sinkScript := rfl
@[simp] theorem State.withWState_draws (w : WState) : (s.withWState w).draws = s.draws := rfl

/-! ## withStream -/

@[simp] theorem State.withStream_regs (b : List Byte) : (s.withStream b).regs = s.regs := rfl
@[simp] theorem State.withStream_bufA (b : List Byte) : (s.withStream b).bufA = s.bufA := rfl
@[simp] theorem State.withStream_bufY (b : List Byte) : (s.withStream b).bufY = s.bufY := rfl
@[simp] theorem State.withStream_csumr (b : List Byte) : (s.withStream b).csumr = s.csumr := rfl
@[simp] theorem State.withStream_fcode (b : List Byte) : (s.withStream b).fcode = s.fcode := rfl
@[simp] theorem State.withStream_wstate (b : List Byte) : (s.withStream b).wstate = s.wstate := rfl
@[simp] theorem State.withStream_finfo (b : List Byte) : (s.withStream b).finfo = s.finfo := rfl
@[simp] theorem State.withStream_stream (b : List Byte) : (s.withStream b).stream = b := rfl
@[simp] theorem State.withStream_refused (b : List Byte) : (s.withStream b).refused = s.refused := rfl
@[simp] theorem State.withStream_everRefused (b : List Byte) : (s.withStream b).everRefused = s.everRefused := rfl
@[simp] theorem State.withStream_inbox (b : List Byte) : (s.withStream b).inbox = s.inbox := rfl
@[simp] theorem State.withStream_outbox (b : List Byte) : (s.withStream b).outbox = s.outbox := rfl
@[simp] theorem State.withStream_sinkScript (b : List Byte) : (s.withStream b).sinkScript = s.sinkScript := rfl
@[simp] theorem State.withStream_draws (b : List Byte) : (s.withStream b).draws = s.draws := rfl

/-! ## markRefused -/

@[simp] theorem State.markRefused_regs : s.markRefused.regs = s.regs := rfl
@[simp] theorem State.markRefused_bufA : s.markRefused.bufA = s.bufA := rfl
@[simp] theorem State.markRefused_bufY : s.markRefused.bufY = s.bufY := rfl
@[simp] theorem State.markRefused_csumr : s.markRefused.csumr = s.csumr := rfl
@[simp] theorem State.markRefused_fcode : s.markRefused.fcode = s.fcode := rfl
@[simp] theorem State.markRefused_wstate : s.markRefused.wstate = s.wstate := rfl
@[simp] theorem State.markRefused_finfo : s.markRefused.finfo = s.finfo := rfl
@[simp] theorem State.markRefused_stream : s.markRefused.stream = s.stream := rfl
@[simp] theorem State.markRefused_refused : s.markRefused.refused = true := rfl
@[simp] theorem State.markRefused_everRefused : s.markRefused.everRefused = true := rfl
@[simp] theorem State.markRefused_inbox : s.markRefused.inbox = s.inbox := rfl
@[simp] theorem State.markRefused_outbox : s.markRefused.outbox = s.outbox := rfl
@[simp] theorem State.markRefused_sinkScript : s.markRefused.sinkScript = s.sinkScript := rfl
@[simp] theorem State.markRefused_draws : s.markRefused.draws = s.draws := rfl

/-! ## withAnswer -/

@[simp] theorem State.withAnswer_regs (x : ReadAnswer) : (s.withAnswer x).regs = s.regs := rfl
@[simp] theorem State.withAnswer_bufA (x : ReadAnswer) : (s.withAnswer x).bufA = s.bufA := rfl
@[simp] theorem State.withAnswer_bufY (x : ReadAnswer) : (s.withAnswer x).bufY = s.bufY := rfl
@[simp] theorem State.withAnswer_csumr (x : ReadAnswer) : (s.withAnswer x).csumr = s.csumr := rfl
@[simp] theorem State.withAnswer_fcode (x : ReadAnswer) : (s.withAnswer x).fcode = s.fcode := rfl
@[simp] theorem State.withAnswer_wstate (x : ReadAnswer) : (s.withAnswer x).wstate = s.wstate := rfl
@[simp] theorem State.withAnswer_finfo (x : ReadAnswer) : (s.withAnswer x).finfo = s.finfo := rfl
@[simp] theorem State.withAnswer_stream (x : ReadAnswer) : (s.withAnswer x).stream = s.stream := rfl
@[simp] theorem State.withAnswer_refused (x : ReadAnswer) : (s.withAnswer x).refused = s.refused := rfl
@[simp] theorem State.withAnswer_everRefused (x : ReadAnswer) : (s.withAnswer x).everRefused = s.everRefused := rfl
@[simp] theorem State.withAnswer_inbox (x : ReadAnswer) : (s.withAnswer x).inbox = s.inbox := rfl
@[simp] theorem State.withAnswer_outbox (x : ReadAnswer) : (s.withAnswer x).outbox = s.outbox ++ [x] := rfl
@[simp] theorem State.withAnswer_sinkScript (x : ReadAnswer) : (s.withAnswer x).sinkScript = s.sinkScript := rfl
@[simp] theorem State.withAnswer_draws (x : ReadAnswer) : (s.withAnswer x).draws = s.draws := rfl

/-! ## withInbox -/

@[simp] theorem State.withInbox_regs (as : List HostAction) : (s.withInbox as).regs = s.regs := rfl
@[simp] theorem State.withInbox_bufA (as : List HostAction) : (s.withInbox as).bufA = s.bufA := rfl
@[simp] theorem State.withInbox_bufY (as : List HostAction) : (s.withInbox as).bufY = s.bufY := rfl
@[simp] theorem State.withInbox_csumr (as : List HostAction) : (s.withInbox as).csumr = s.csumr := rfl
@[simp] theorem State.withInbox_fcode (as : List HostAction) : (s.withInbox as).fcode = s.fcode := rfl
@[simp] theorem State.withInbox_wstate (as : List HostAction) : (s.withInbox as).wstate = s.wstate := rfl
@[simp] theorem State.withInbox_finfo (as : List HostAction) : (s.withInbox as).finfo = s.finfo := rfl
@[simp] theorem State.withInbox_stream (as : List HostAction) : (s.withInbox as).stream = s.stream := rfl
@[simp] theorem State.withInbox_refused (as : List HostAction) : (s.withInbox as).refused = s.refused := rfl
@[simp] theorem State.withInbox_everRefused (as : List HostAction) : (s.withInbox as).everRefused = s.everRefused := rfl
@[simp] theorem State.withInbox_inbox (as : List HostAction) : (s.withInbox as).inbox = as := rfl
@[simp] theorem State.withInbox_outbox (as : List HostAction) : (s.withInbox as).outbox = s.outbox := rfl
@[simp] theorem State.withInbox_sinkScript (as : List HostAction) : (s.withInbox as).sinkScript = s.sinkScript := rfl
@[simp] theorem State.withInbox_draws (as : List HostAction) : (s.withInbox as).draws = s.draws := rfl

/-! ## drawSink -/

@[simp] theorem State.drawSink_regs : s.drawSink.regs = s.regs := rfl
@[simp] theorem State.drawSink_bufA : s.drawSink.bufA = s.bufA := rfl
@[simp] theorem State.drawSink_bufY : s.drawSink.bufY = s.bufY := rfl
@[simp] theorem State.drawSink_csumr : s.drawSink.csumr = s.csumr := rfl
@[simp] theorem State.drawSink_fcode : s.drawSink.fcode = s.fcode := rfl
@[simp] theorem State.drawSink_wstate : s.drawSink.wstate = s.wstate := rfl
@[simp] theorem State.drawSink_finfo : s.drawSink.finfo = s.finfo := rfl
@[simp] theorem State.drawSink_stream : s.drawSink.stream = s.stream := rfl
@[simp] theorem State.drawSink_refused : s.drawSink.refused = s.refused := rfl
@[simp] theorem State.drawSink_everRefused : s.drawSink.everRefused = s.everRefused := rfl
@[simp] theorem State.drawSink_inbox : s.drawSink.inbox = s.inbox := rfl
@[simp] theorem State.drawSink_outbox : s.drawSink.outbox = s.outbox := rfl
@[simp] theorem State.drawSink_sinkScript : s.drawSink.sinkScript = s.sinkScript.tail := rfl
@[simp] theorem State.drawSink_draws : s.drawSink.draws = s.draws + 1 := rfl

/-! ## raise -/

@[simp] theorem State.raise_regs (f : FaultInfo) : (s.raise f).regs = s.regs := rfl
@[simp] theorem State.raise_bufA (f : FaultInfo) : (s.raise f).bufA = s.bufA := rfl
@[simp] theorem State.raise_bufY (f : FaultInfo) : (s.raise f).bufY = s.bufY := rfl
@[simp] theorem State.raise_csumr (f : FaultInfo) : (s.raise f).csumr = s.csumr := rfl
@[simp] theorem State.raise_fcode (f : FaultInfo) : (s.raise f).fcode = some f.code := rfl
@[simp] theorem State.raise_wstate (f : FaultInfo) : (s.raise f).wstate = s.wstate := rfl
@[simp] theorem State.raise_finfo (f : FaultInfo) : (s.raise f).finfo = infoWord f.info := rfl
@[simp] theorem State.raise_stream (f : FaultInfo) : (s.raise f).stream = s.stream := rfl
@[simp] theorem State.raise_refused (f : FaultInfo) : (s.raise f).refused = s.refused := rfl
@[simp] theorem State.raise_everRefused (f : FaultInfo) : (s.raise f).everRefused = s.everRefused := rfl
@[simp] theorem State.raise_inbox (f : FaultInfo) : (s.raise f).inbox = s.inbox := rfl
@[simp] theorem State.raise_outbox (f : FaultInfo) : (s.raise f).outbox = s.outbox := rfl
@[simp] theorem State.raise_sinkScript (f : FaultInfo) : (s.raise f).sinkScript = s.sinkScript := rfl
@[simp] theorem State.raise_draws (f : FaultInfo) : (s.raise f).draws = s.draws := rfl

/-! ## afterReset -/

@[simp] theorem State.afterReset_regs : s.afterReset.regs = Regs.reset := rfl
@[simp] theorem State.afterReset_bufA : s.afterReset.bufA = none := rfl
@[simp] theorem State.afterReset_bufY : s.afterReset.bufY = none := rfl
@[simp] theorem State.afterReset_csumr : s.afterReset.csumr = none := rfl
@[simp] theorem State.afterReset_fcode : s.afterReset.fcode = none := rfl
@[simp] theorem State.afterReset_wstate : s.afterReset.wstate = .closed := rfl
@[simp] theorem State.afterReset_finfo : s.afterReset.finfo = 0 := rfl
@[simp] theorem State.afterReset_stream : s.afterReset.stream = [] := rfl
@[simp] theorem State.afterReset_refused : s.afterReset.refused = false := rfl
@[simp] theorem State.afterReset_everRefused : s.afterReset.everRefused = s.everRefused := rfl
@[simp] theorem State.afterReset_inbox : s.afterReset.inbox = s.inbox := rfl
@[simp] theorem State.afterReset_outbox : s.afterReset.outbox = s.outbox := rfl
@[simp] theorem State.afterReset_sinkScript : s.afterReset.sinkScript = s.sinkScript := rfl
@[simp] theorem State.afterReset_draws : s.afterReset.draws = s.draws := rfl

/-! ## The argument registers -/

/-- What `SET` leaves in each register: the value in the one it names, cut to the width, and every other as it was. -/
theorem Regs.get_set (g : Regs) (r q : ArgReg) (v : Nat) :
    (g.set r v).get q = if q = r then some (v % 2 ^ r.width) else g.get q := by
  cases r <;> cases q <;> rfl

@[simp] theorem Regs.get_set_self (g : Regs) (r : ArgReg) (v : Nat) :
    (g.set r v).get r = some (v % 2 ^ r.width) := by simp [Regs.get_set]

@[simp] theorem Regs.get_set_of_ne (g : Regs) {r q : ArgReg} (h : q ≠ r) (v : Nat) :
    (g.set r v).get q = g.get q := by simp [Regs.get_set, h]

/-- The index table of R21 read backwards. -/
@[simp] theorem ArgReg.ofIndex_index (i : BitVec 8) (r : ArgReg) (h : r.index = i.toNat) :
    ArgReg.ofIndex i = some r := by
  cases r <;> simp only [ArgReg.index] at h <;> simp [ArgReg.ofIndex, ← h]

/-- An index of 11 or more names no register (R21). -/
theorem ArgReg.ofIndex_reserved (i : BitVec 8) (h : 11 ≤ i.toNat) : ArgReg.ofIndex i = none := by
  unfold ArgReg.ofIndex
  split <;> first | omega | rfl

/-- PROTO is never `⊥` again once it is written (R165). -/
theorem Regs.set_proto_ne_none (g : Regs) (r : ArgReg) (v : Nat) (h : g.proto ≠ none) :
    (g.set r v).proto ≠ none := by
  cases r <;> simp_all [Regs.set]

end Sys2Proof.Machine
end

