-- ==== Sys2Proof/Laws/Ops.lean ====
section
/-! SUPPORT. For each shared operation, once, everything it can do: the command frame, the sink primitives, the operand
reads and the checks. -/

namespace Sys2Proof.Machine

/-! ## Numbers recorded in FINFO -/

theorem infoWord_of_lt {n : Nat} (h : n < 2 ^ 32) : infoWord n = BitVec.ofNat 32 n := if_pos h

/-! ## Parameters -/

theorem bufMax_ge : 65549 ≤ Config.bufMax := Nat.le_max_left _ _

theorem bufMax_lt : Config.bufMax < 2 ^ 32 :=
  Nat.max_lt.mpr ⟨by decide, Config.bufMaxRaw.isLt⟩

/-! ## The command frame -/

section
variable {α : Type} {check : State → Checked α} {effect : α → State → State} {s : State}

@[simp] theorem runCommand_faulted {f : FaultCode} (h : s.fcode = some f) : runCommand check effect s = s := by
  simp [runCommand, h]

@[simp] theorem runCommand_ok {v : α} (h : s.fcode = none) (hc : check s = .ok v) :
    runCommand check effect s = effect v s := by
  simp [runCommand, h, hc]

@[simp] theorem runCommand_error {f : FaultInfo} (h : s.fcode = none) (hc : check s = .error f) :
    runCommand check effect s = s.raise f := by
  simp [runCommand, h, hc]

/-- Everything a command can do: nothing while a fault stands; else the fault its checks found, or its effect. -/
theorem runCommand_cases :
    (s.fcode ≠ none ∧ runCommand check effect s = s) ∨
    (s.fcode = none ∧ ∃ f, check s = .error f ∧ runCommand check effect s = s.raise f) ∨
    (s.fcode = none ∧ ∃ v, check s = .ok v ∧ runCommand check effect s = effect v s) := by
  cases hf : s.fcode with
  | some f => exact .inl ⟨by simp, runCommand_faulted hf⟩
  | none =>
    cases hc : check s with
    | error f => exact .inr (.inl ⟨rfl, f, rfl, runCommand_error hf hc⟩)
    | ok v => exact .inr (.inr ⟨rfl, v, rfl, runCommand_ok hf hc⟩)

end

/-! ## The sink -/

section
variable {b : List Byte} {done : State → State} {s : State}

@[simp] theorem sinkAppend_ok (h : s.sinkAnswer = .ok) :
    sinkAppend b done s = done (s.drawSink.withStream (s.stream ++ b)) := by
  simp [sinkAppend, h]

@[simp] theorem sinkAppend_fail {k : Nat} (h : s.sinkAnswer = .fail k) :
    sinkAppend b done s =
      (s.drawSink.withStream (s.stream ++ b.take (min k b.length))).raise ⟨.ioError, min k b.length⟩ := by
  simp [sinkAppend, h]

/-- Everything `Append` can do: all of the bytes and the command's next part, or a prefix and IO_ERROR. -/
theorem sinkAppend_cases :
    (s.sinkAnswer = .ok ∧ sinkAppend b done s = done (s.drawSink.withStream (s.stream ++ b))) ∨
    ∃ k, k ≤ b.length ∧ sinkAppend b done s =
      (s.drawSink.withStream (s.stream ++ b.take k)).raise ⟨.ioError, k⟩ := by
  cases h : s.sinkAnswer with
  | ok => exact .inl ⟨rfl, sinkAppend_ok h⟩
  | fail k => exact .inr ⟨min k b.length, Nat.min_le_right _ _, sinkAppend_fail h⟩

@[simp] theorem sinkControl_ok (h : s.sinkAnswer = .ok) : sinkControl done s = done s.drawSink := by
  simp [sinkControl, h]

@[simp] theorem sinkControl_fail {k : Nat} (h : s.sinkAnswer = .fail k) :
    sinkControl done s = s.drawSink.raise ⟨.ioError, 0⟩ := by
  simp [sinkControl, h]

/-- Everything `SinkControl` can do. -/
theorem sinkControl_cases :
    (s.sinkAnswer = .ok ∧ sinkControl done s = done s.drawSink) ∨
    (sinkControl done s = s.drawSink.raise ⟨.ioError, 0⟩) := by
  cases h : s.sinkAnswer with
  | ok => exact .inl ⟨rfl, sinkControl_ok h⟩
  | fail k => exact .inr (sinkControl_fail h)

/-- The sink's next verdict depends on its own two fields only. -/
@[simp] theorem sinkAnswer_withStream (b : List Byte) : (s.withStream b).sinkAnswer = s.sinkAnswer := rfl

/-- A script's head is the next verdict. -/
theorem sinkAnswer_of_script {v : SinkVerdict} {rest : List SinkVerdict} (h : s.sinkScript = v :: rest) :
    s.sinkAnswer = v := by simp [State.sinkAnswer, h]

end

/-! ## Checks -/

section
variable {α β : Type}

@[simp] theorem Checked.bind_ok (v : α) (k : α → Checked β) : ((.ok v : Checked α) >>= k) = k v := rfl

@[simp] theorem Checked.bind_error (f : FaultInfo) (k : α → Checked β) :
    ((.error f : Checked α) >>= k) = .error f := rfl

/-- A chain of checks passes exactly when its first part does and the rest does on its value. -/
theorem Checked.bind_eq_ok {x : Checked α} {k : α → Checked β} {w : β} :
    (x >>= k) = .ok w ↔ ∃ v, x = .ok v ∧ k v = .ok w := by
  cases x <;> simp

/-- A chain of checks finds a fault exactly when its first part does, or passes and the rest does. -/
theorem Checked.bind_eq_error {x : Checked α} {k : α → Checked β} {f : FaultInfo} :
    (x >>= k) = .error f ↔ x = .error f ∨ ∃ v, x = .ok v ∧ k v = .error f := by
  cases x <;> simp

@[simp] theorem needs_some (id : Nat) (v : α) : needs id (some v) = .ok v := rfl

@[simp] theorem needs_none (id : Nat) : needs id (none : Option α) = .error ⟨.unwrittenOperand, id⟩ := rfl

theorem needs_eq_ok {id : Nat} {x : Option α} {v : α} : needs id x = .ok v ↔ x = some v := by
  cases x <;> simp [needs]

theorem needs_eq_error {id : Nat} {x : Option α} {f : FaultInfo} :
    needs id x = .error f ↔ x = none ∧ f = ⟨.unwrittenOperand, id⟩ := by
  cases x <;> simp [needs, eq_comm]

end

section
variable {s : State}

theorem operand_eq_ok {src : Buffer} {b : List Byte} : operand src s = .ok b ↔ s.buffer src = some b := needs_eq_ok

theorem operand_eq_error {src : Buffer} {f : FaultInfo} :
    operand src s = .error f ↔ s.buffer src = none ∧ f = ⟨.unwrittenOperand, bufferId src⟩ := needs_eq_error

@[simp] theorem inState_ok {w : WState} (h : s.wstate = w) : inState w s = .ok () := by simp [inState, h]

theorem inState_eq_ok {w : WState} {u : Unit} : inState w s = .ok u ↔ s.wstate = w := by
  simp [inState]

theorem inState_eq_error {w : WState} {f : FaultInfo} :
    inState w s = .error f ↔ s.wstate ≠ w ∧ f = ⟨.sequence, s.wstate.code.toNat⟩ := by
  by_cases h : s.wstate = w <;> simp [inState, h, eq_comm]

theorem fitsBuffer_eq_ok {r b : List Byte} : fitsBuffer r = .ok b ↔ b = r ∧ r.length ≤ Config.bufMax := by
  by_cases h : r.length ≤ Config.bufMax <;> simp [fitsBuffer, h, eq_comm]

theorem fitsBuffer_eq_error {r : List Byte} {f : FaultInfo} :
    fitsBuffer r = .error f ↔ Config.bufMax < r.length ∧ f = ⟨.bufferOverflow, r.length⟩ := by
  by_cases h : r.length ≤ Config.bufMax
  · simp [fitsBuffer, h, Nat.not_lt.mpr h]
  · simp [fitsBuffer, h, Nat.lt_of_not_le h, eq_comm]

end

end Sys2Proof.Machine
end

