-- ==== Sys2Proof/Laws/Exec.lean ====
section
/-! SUPPORT. What a command's checks find and give, what a command can do, and what a step can do: each said once, so
that proofs about commands and steps cite it and unfold nothing. -/

namespace Sys2Proof.Machine

/-! ## What the checks give -/

section
variable {src : Buffer} {s : State} {y : List Byte}

/-- A passed ETH check gives the frame of the written operands, and it fits. -/
theorem ethResult_ok (h : ethResult src s = .ok y) :
    ∃ b d m, s.buffer src = some b ∧ s.regs.dmac = some d ∧ s.regs.smac = some m ∧
      y = buildEthernet d m b ∧ y.length ≤ Config.bufMax := by
  simp only [ethResult, Checked.bind_eq_ok, operand_eq_ok, needs_eq_ok, fitsBuffer_eq_ok] at h
  obtain ⟨b, hb, d, hd, m, hm, hy, hl⟩ := h
  exact ⟨b, d, m, hb, hd, hm, hy, hy ▸ hl⟩

/-- The builder gives a packet exactly when the total length fits. -/
theorem buildIPv4_ok {ipId : BitVec 16} {sip dip : BitVec 32} {b : List Byte} {proto : BitVec 8}
    (h : buildIPv4 ipId sip dip b proto = .ok y) : b.length ≤ 65515 ∧ y = ipv4Packet ipId sip dip proto b := by
  unfold buildIPv4 at h
  split at h
  · cases h
  · injection h with h
    exact ⟨by omega, h.symm⟩

/-- A passed IPV4 check gives the packet of the written operands. -/
theorem ipv4Result_ok (h : ipv4Result src s = .ok y) :
    ∃ b sip dip proto, s.buffer src = some b ∧ s.regs.sip = some sip ∧ s.regs.dip = some dip ∧
      s.regs.proto = some proto ∧ b.length ≤ 65515 ∧ y = ipv4Packet Config.ipId sip dip proto b := by
  simp only [ipv4Result, Checked.bind_eq_ok, operand_eq_ok, needs_eq_ok] at h
  obtain ⟨b, hb, sip, h1, dip, h2, proto, h3, h⟩ := h
  exact ⟨b, sip, dip, proto, hb, h1, h2, h3, buildIPv4_ok h⟩

/-- A passed TCP check gives the segment of the written operands, and it fits. -/
theorem tcpResult_ok (h : tcpResult src s = .ok y) :
    ∃ b sp dp seq ack fl, s.buffer src = some b ∧ s.regs.sport = some sp ∧ s.regs.dport = some dp ∧
      s.regs.seq = some seq ∧ s.regs.ack = some ack ∧ s.regs.tflags = some fl ∧
      y = buildTCP sp dp seq ack fl b ∧ y.length ≤ Config.bufMax := by
  simp only [tcpResult, Checked.bind_eq_ok, operand_eq_ok, needs_eq_ok, fitsBuffer_eq_ok] at h
  obtain ⟨b, hb, sp, h1, dp, h2, seq, h3, ack, h4, fl, h5, hy, hl⟩ := h
  exact ⟨b, sp, dp, seq, ack, fl, hb, h1, h2, h3, h4, h5, hy, hy ▸ hl⟩

/-- The ASCII check passes exactly when every byte is below 0x80 (R201). -/
theorem asciiOnly_eq_ok {b : List Byte} {u : Unit} : asciiOnly b = .ok u ↔ ∀ x ∈ b, x.toNat < 0x80 := by
  unfold asciiOnly
  cases h : b.findIdx? (fun x => decide (0x80 ≤ x.toNat)) with
  | some i =>
    simp only [reduceCtorEq, false_iff]
    intro hall
    have hn : b.findIdx? (fun x => decide (0x80 ≤ x.toNat)) = none := by
      rw [List.findIdx?_eq_none_iff]
      intro x hx
      simpa using hall x hx
    rw [hn] at h
    cases h
  | none =>
    rw [List.findIdx?_eq_none_iff] at h
    simp only [true_iff]
    intro x hx
    simpa using h x hx

/-- A passed FRAME check gives the frame of the written operands, of a 7-bit payload that is not too long. -/
theorem frameResult_ok (h : frameResult src s = .ok y) :
    ∃ b sip dip sp dp seq ack fl, s.buffer src = some b ∧ s.regs.sip = some sip ∧ s.regs.dip = some dip ∧
      s.regs.sport = some sp ∧ s.regs.dport = some dp ∧ s.regs.seq = some seq ∧ s.regs.ack = some ack ∧
      s.regs.tflags = some fl ∧ (∀ x ∈ b, x.toNat < 0x80) ∧ b.length ≤ 65495 ∧
      y = buildEthernet Config.frameDmac Config.frameSmac
        (ipv4Packet Config.ipId sip dip 6 (buildTCP sp dp seq ack fl b)) := by
  simp only [frameResult, buildFrame, Checked.bind_eq_ok, operand_eq_ok, needs_eq_ok, asciiOnly_eq_ok] at h
  obtain ⟨b, hb, sip, h1, dip, h2, sp, h3, dp, h4, seq, h5, ack, h6, fl, h7, _, ha, _, hl, p, hp, h⟩ := h
  obtain ⟨hlen, rfl⟩ := buildIPv4_ok hp
  rw [buildTCP_length] at hlen
  injection h with h
  exact ⟨b, sip, dip, sp, dp, seq, ack, fl, hb, h1, h2, h3, h4, h5, h6, h7, ha, by omega, h.symm⟩

/-- A passed WREC check gives the record of the written operands, with an accepted timestamp, in HEADER. -/
theorem wrecResult_ok (h : wrecResult src s = .ok y) :
    s.wstate = .header ∧ ∃ b ts, s.buffer src = some b ∧ s.regs.ts = some ts ∧ timestampOk ts = true ∧
      y = recordBytes (BitVec.ofNat 32 (wholeSeconds ts)) (BitVec.ofNat 32 (microseconds ts)) b := by
  simp only [wrecResult, splitTimestamp, Checked.bind_eq_ok, operand_eq_ok, needs_eq_ok, inState_eq_ok] at h
  obtain ⟨_, hw, b, hb, ts, hts, ⟨secs, us⟩, hp, h⟩ := h
  split at hp
  · rename_i hok
    injection hp with hp
    injection hp with h1 h2
    injection h with h
    subst h1 h2
    exact ⟨hw, b, ts, hb, hts, hok, h.symm⟩
  · cases hp

/-! ## What faults the checks find -/

variable {f : FaultInfo}

theorem operand_fault (h : operand src s = .error f) : f.code = .unwrittenOperand := by
  rw [(operand_eq_error.mp h).2]

theorem ethResult_fault (h : ethResult src s = .error f) :
    f.code = .unwrittenOperand ∨ f.code = .bufferOverflow := by
  simp only [ethResult, Checked.bind_eq_error, operand_eq_error, needs_eq_error, fitsBuffer_eq_error] at h
  rcases h with ⟨_, rfl⟩ | ⟨_, _, ⟨_, rfl⟩ | ⟨_, _, ⟨_, rfl⟩ | ⟨_, _, _, rfl⟩⟩⟩ <;> simp

theorem buildIPv4_fault {ipId : BitVec 16} {sip dip : BitVec 32} {b : List Byte} {proto : BitVec 8}
    (h : buildIPv4 ipId sip dip b proto = .error f) : f.code = .lengthOverflow := by
  unfold buildIPv4 at h
  split at h <;> cases h
  rfl

theorem ipv4Result_fault (h : ipv4Result src s = .error f) :
    f.code = .unwrittenOperand ∨ f.code = .lengthOverflow := by
  simp only [ipv4Result, Checked.bind_eq_error, operand_eq_error, needs_eq_error] at h
  rcases h with ⟨_, rfl⟩ | ⟨_, _, ⟨_, rfl⟩ | ⟨_, _, ⟨_, rfl⟩ | ⟨_, _, ⟨_, rfl⟩ | ⟨_, _, h⟩⟩⟩⟩
  case inr.inr.inr.inr => exact .inr (buildIPv4_fault h)
  all_goals exact .inl rfl

theorem tcpResult_fault (h : tcpResult src s = .error f) :
    f.code = .unwrittenOperand ∨ f.code = .bufferOverflow := by
  simp only [tcpResult, Checked.bind_eq_error, operand_eq_error, needs_eq_error, fitsBuffer_eq_error] at h
  rcases h with ⟨_, rfl⟩ | ⟨_, _, ⟨_, rfl⟩ | ⟨_, _, ⟨_, rfl⟩ | ⟨_, _, ⟨_, rfl⟩ | ⟨_, _, ⟨_, rfl⟩ | ⟨_, _, ⟨_, rfl⟩ |
    ⟨_, _, _, rfl⟩⟩⟩⟩⟩⟩ <;> simp

theorem asciiOnly_fault {b : List Byte} (h : asciiOnly b = .error f) : f.code = .nonAscii := by
  unfold asciiOnly at h
  split at h <;> cases h
  rfl

theorem frameLength_fault {b : List Byte} (h : frameLength b = .error f) : f.code = .lengthOverflow := by
  unfold frameLength at h
  split at h <;> cases h
  rfl

theorem frameResult_fault (h : frameResult src s = .error f) :
    f.code = .unwrittenOperand ∨ f.code = .nonAscii ∨ f.code = .lengthOverflow := by
  simp only [frameResult, buildFrame, Checked.bind_eq_error, operand_eq_error, needs_eq_error] at h
  rcases h with ⟨_, rfl⟩ | ⟨_, _, ⟨_, rfl⟩ | ⟨_, _, ⟨_, rfl⟩ | ⟨_, _, ⟨_, rfl⟩ | ⟨_, _, ⟨_, rfl⟩ | ⟨_, _, ⟨_, rfl⟩ |
    ⟨_, _, ⟨_, rfl⟩ | ⟨_, _, ⟨_, rfl⟩ | ⟨_, _, h⟩⟩⟩⟩⟩⟩⟩⟩
  case inr.inr.inr.inr.inr.inr.inr.inr =>
    rcases h with h | ⟨_, _, h | ⟨_, _, h | ⟨_, _, h⟩⟩⟩
    · exact .inr (.inl (asciiOnly_fault h))
    · exact .inr (.inr (frameLength_fault h))
    · exact .inr (.inr (buildIPv4_fault h))
    · cases h
  all_goals exact .inl rfl

theorem inState_fault {w : WState} (h : inState w s = .error f) : f.code = .sequence := by
  rw [(inState_eq_error.mp h).2]

theorem wrecResult_fault (h : wrecResult src s = .error f) :
    f.code = .sequence ∨ f.code = .unwrittenOperand ∨ f.code = .timestampRange := by
  simp only [wrecResult, splitTimestamp, Checked.bind_eq_error, operand_eq_error, needs_eq_error,
    inState_eq_error] at h
  rcases h with ⟨_, rfl⟩ | ⟨_, _, ⟨_, rfl⟩ | ⟨_, _, ⟨_, rfl⟩ | ⟨_, _, h | ⟨_, _, h⟩⟩⟩⟩
  · exact .inl rfl
  · exact .inr (.inl rfl)
  · exact .inr (.inl rfl)
  · split at h <;> cases h
    exact .inr (.inr rfl)
  · cases h

end

/-! ## What a command can do -/

/-- The fault a command's own checks find, if any: those before its effect. -/
def checkFault (i : Instr) (s : State) (f : FaultInfo) : Prop :=
  match i with
  | .csum src => operand src s = .error f
  | .eth src => ethResult src s = .error f
  | .ipv4 src => ipv4Result src s = .error f
  | .tcp src => tcpResult src s = .error f
  | .frame src => frameResult src s = .error f
  | .openFile => inState .closed s = .error f
  | .ghdr => inState .opened s = .error f
  | .wrec src => wrecResult src s = .error f
  | .closeFile => inState .header s = .error f

/-- The effect of a command whose checks pass. -/
def checkedEffect (i : Instr) (s t : State) : Prop :=
  match i with
  | .csum src => ∃ b, operand src s = .ok b ∧ t = s.withCsumr (checksum b)
  | .eth src => ∃ y, ethResult src s = .ok y ∧ t = s.withY y
  | .ipv4 src => ∃ y, ipv4Result src s = .ok y ∧ t = s.withY y
  | .tcp src => ∃ y, tcpResult src s = .ok y ∧ t = s.withY y
  | .frame src => ∃ y, frameResult src s = .ok y ∧ t = s.withY y
  | .openFile => s.wstate = .closed ∧ t = sinkControl (fun u => u.withWState .opened) (s.withStream [])
  | .ghdr => s.wstate = .opened ∧ t = sinkAppend globalHeader (fun u => u.withWState .header) s
  | .wrec src => ∃ r, wrecResult src s = .ok r ∧ t = sinkAppend r (fun u => u) s
  | .closeFile => s.wstate = .header ∧ t = sinkControl (fun u => u.withWState .closed) s

/-- Everything a command can do: nothing while a fault stands; else the fault its checks find, or its effect. -/
theorem exec_cases {i : Instr} {s t : State} (h : exec i s = .next t) :
    (s.fcode ≠ none ∧ t = s) ∨
    (s.fcode = none ∧ ∃ f, checkFault i s f ∧ t = s.raise f) ∨
    (s.fcode = none ∧ checkedEffect i s t) := by
  have key : ∀ {α : Type} (check : State → Checked α) (effect : α → State → State),
      t = runCommand check effect s →
      (s.fcode ≠ none ∧ t = s) ∨ (s.fcode = none ∧ ∃ f, check s = .error f ∧ t = s.raise f) ∨
      (s.fcode = none ∧ ∃ v, check s = .ok v ∧ t = effect v s) := by
    rintro α check effect rfl
    exact runCommand_cases
  cases i <;> injection h with h
  case openFile =>
    rcases key _ _ h.symm with h | h | ⟨hf, _, hc, h⟩
    · exact .inl h
    · exact .inr (.inl h)
    · exact .inr (.inr ⟨hf, inState_eq_ok.mp hc, h⟩)
  case ghdr =>
    rcases key _ _ h.symm with h | h | ⟨hf, _, hc, h⟩
    · exact .inl h
    · exact .inr (.inl h)
    · exact .inr (.inr ⟨hf, inState_eq_ok.mp hc, h⟩)
  case closeFile =>
    rcases key _ _ h.symm with h | h | ⟨hf, _, hc, h⟩
    · exact .inl h
    · exact .inr (.inl h)
    · exact .inr (.inr ⟨hf, inState_eq_ok.mp hc, h⟩)
  all_goals exact key _ _ h.symm

/-! ## What a step can do -/

/-- Everything a step can do: hold the state, run a decoded command, report an illegal word, or take another host
action. -/
theorem step_cases {s t : State} (h : step s = .next t) :
    (s.inbox = [] ∧ t = s) ∨
    (∃ c rest i, s.inbox = .issue c :: rest ∧ decode c = .ok i ∧ exec i (s.withInbox rest) = .next t) ∨
    (∃ c rest e, s.inbox = .issue c :: rest ∧ decode c = .error e ∧ t = illegalCommand c (s.withInbox rest)) ∨
    (∃ a rest, s.inbox = a :: rest ∧ (∀ c, a ≠ .issue c) ∧ t = hostEffect a (s.withInbox rest)) := by
  unfold step State.nextAction at h
  cases hi : s.inbox with
  | nil =>
    rw [hi] at h
    injection h with h
    exact .inl ⟨rfl, h.symm⟩
  | cons a rest =>
    rw [hi] at h
    cases a with
    | issue c =>
      cases hd : decode c with
      | ok i =>
        simp only [hd] at h
        exact .inr (.inl ⟨c, rest, i, rfl, hd, h⟩)
      | error e =>
        simp only [hd] at h
        injection h with h
        exact .inr (.inr (.inl ⟨c, rest, e, rfl, hd, h.symm⟩))
    | _ =>
      injection h with h
      refine .inr (.inr (.inr ⟨_, rest, rfl, ?_, h.symm⟩))
      simp

/-- An illegal word changes FCODE and FINFO only. -/
theorem illegalCommand_eq (c : CommandWord) (s : State) :
    illegalCommand c s = s ∨
    (s.fcode = none ∧ illegalCommand c s = s.raise ⟨.illegalCommand, c.toNat⟩) := by
  unfold illegalCommand
  cases hf : s.fcode with
  | some f => exact .inl (runCommand_faulted hf)
  | none => exact .inr ⟨rfl, runCommand_error hf rfl⟩

/-- A host action other than RESET and ISSUE leaves what only commands write. -/
theorem hostEffect_keeps {a : HostAction} (s : State) (ha : a ≠ .reset) :
    (hostEffect a s).bufY = s.bufY ∧ (hostEffect a s).csumr = s.csumr ∧ (hostEffect a s).fcode = s.fcode ∧
    (hostEffect a s).wstate = s.wstate ∧ (hostEffect a s).finfo = s.finfo ∧ (hostEffect a s).stream = s.stream := by
  cases a <;> simp only [hostEffect, throughPort] <;> split <;> simp_all [hostSet]
  split <;> simp

/-- No host action clears the mark that R41 keeps. -/
theorem hostEffect_everRefused (a : HostAction) (s : State) (h : s.everRefused = true) :
    (hostEffect a s).everRefused = true := by
  cases a <;> simp only [hostEffect, throughPort] <;> split <;> simp_all [hostSet]
  split <;> simp_all

end Sys2Proof.Machine
end

