-- ==== Sys2Proof/Laws/Memory.lean ====
section
/-! SUPPORT. The form of the byte storage, `Memory.wf`: the reset state has it and every operation that writes a buffer
keeps it. -/

namespace Sys2Proof.Machine

theorem reset_memory_wf : Memory.wf State.reset = true := rfl

@[simp] theorem bufferFits_some {b : List Byte} : bufferFits (some b) = true ↔ b.length ≤ Config.bufMax := by
  simp [bufferFits]

@[simp] theorem bufferFits_none : bufferFits none = true := rfl

/-- The form says of both buffers that they fit. -/
theorem memory_wf_iff {s : State} : Memory.wf s = true ↔ bufferFits s.bufA = true ∧ bufferFits s.bufY = true := by
  simp [Memory.wf]

/-- `LOAD_A` of a sequence that fits keeps the form. -/
theorem withA_memory_wf {s : State} {b : List Byte} (h : Memory.wf s = true) (hb : b.length ≤ Config.bufMax) :
    Memory.wf (s.withA b) = true := by
  rw [memory_wf_iff] at h ⊢
  exact ⟨bufferFits_some.mpr hb, h.2⟩

/-- Writing a result that fits keeps the form. -/
theorem withY_memory_wf {s : State} {b : List Byte} (h : Memory.wf s = true) (hb : b.length ≤ Config.bufMax) :
    Memory.wf (s.withY b) = true := by
  rw [memory_wf_iff] at h ⊢
  exact ⟨h.1, bufferFits_some.mpr hb⟩

/-- An operation that leaves both buffers keeps the form. -/
theorem memory_wf_congr {s t : State} (ha : t.bufA = s.bufA) (hy : t.bufY = s.bufY) : Memory.wf t = Memory.wf s := by
  simp only [Memory.wf, ha, hy]

/-- In a state of that form the selected operand fits. -/
theorem buffer_fits {s : State} {src : Buffer} {b : List Byte} (h : Memory.wf s = true) (hb : s.buffer src = some b) :
    b.length ≤ Config.bufMax := by
  rw [memory_wf_iff] at h
  cases src
  · have hA : s.bufA = some b := hb
    exact bufferFits_some.mp (hA ▸ h.1)
  · have hY : s.bufY = some b := hb
    exact bufferFits_some.mp (hY ▸ h.2)

end Sys2Proof.Machine
end

