-- ==== Sys2Proof/Laws/PerInstr.lean ====
section
/-! SUPPORT. The per-instruction family EncodeLegal: the word of every command passes the field checks of R92, R93 and
R97. -/

namespace Sys2Proof.Laws.EncodeLegal

/-- The word of the command is legal field by field. -/
def Statement (i : Instr) : Prop := Command.WellFormed (encode i) = true

theorem csum (src : Buffer) : Statement (.csum src) := by cases src <;> rfl
theorem eth (src : Buffer) : Statement (.eth src) := by cases src <;> rfl
theorem ipv4 (src : Buffer) : Statement (.ipv4 src) := by cases src <;> rfl
theorem tcp (src : Buffer) : Statement (.tcp src) := by cases src <;> rfl
theorem frame (src : Buffer) : Statement (.frame src) := by cases src <;> rfl
theorem openFile : Statement .openFile := rfl
theorem ghdr : Statement .ghdr := rfl
theorem wrec (src : Buffer) : Statement (.wrec src) := by cases src <;> rfl
theorem closeFile : Statement .closeFile := rfl

end Sys2Proof.Laws.EncodeLegal
end

