-- ==== Sys2Proof/Tests/Slice0.lean ====
section
/-! SUPPORT. The smoke tests of WellFormed, the spec's own vectors (95_test_vectors) on one command each, and for every
statement with hypotheses the witnesses that meet them. -/

namespace Sys2Proof.Tests

open Sys2Proof.Machine

/-! ## WellFormed refuses an ill-formed term for each of its checks -/

/-- V-D4: OP 0x06 is unassigned. -/
theorem test_wf_rejects_unassigned_op : Command.WellFormed 0x00000006 = false := by decide
/-- V-D3: CSUM with RES bit 9. -/
theorem test_wf_rejects_reserved_bit : Command.WellFormed 0x00000201 = false := by decide
/-- V-D2: OPEN with YSRC. -/
theorem test_wf_rejects_ysrc_on_open : Command.WellFormed 0x00000110 = false := by decide
/-- R41: index 11 names no register. -/
theorem test_wf_rejects_set_of_index_11 : HostAction.WellFormed (.set 11 0) = false := by decide
/-- R41: 256 is wider than PROTO. -/
theorem test_wf_rejects_wide_value : HostAction.WellFormed (.set 9 256) = false := by decide
/-- R41: one byte more than `P_BUF_MAX`. -/
theorem test_wf_rejects_long_load :
    HostAction.WellFormed (.loadA (List.replicate (Config.bufMax + 1) 0)) = false := by
  simp [HostAction.accepted]
/-- R41: an action outside R40's table. -/
theorem test_wf_rejects_outside : HostAction.WellFormed .outside = false := by decide

/-! ## Decoding -/

/-- V-D1. -/
theorem test_decode_zero_is_illegal : decode 0x00000000 = .error .unassignedOp := rfl
/-- V-D5, through the table's numbering. -/
theorem test_decodeTableWord_frameY : decodeTableWord 32 0x105 = some (.frame .y) := rfl
/-- A word the table could not hold. -/
theorem test_decodeTableWord_wide : decodeTableWord 64 0x100000001 = none := by decide

/-! ## Small states -/

/-- Every argument register written: the values of the source's scenario (95 section 1). -/
def scenarioRegs : Regs :=
  { dmac := some 0x020000000001, smac := some 0x020000000002, sip := some 0xC0A80134, dip := some 0xC0A8496C,
    sport := some 54000, dport := some 9200, seq := some 1000, ack := some 2000, tflags := some 0x18,
    proto := some 6, ts := some 0x408F440000000000 }

/-- The reset state with those registers, both buffers holding `b`, and a sink that answers OK next. -/
def ready (b : List Byte) : State :=
  { State.reset with regs := scenarioRegs, bufA := some b, bufY := some b, sinkScript := [.ok] }

/-- The same with the given writer state. -/
def readyIn (w : WState) (b : List Byte) : State := { ready b with wstate := w }

/-- The same with a sink that fails after `k` bytes. -/
def failing (w : WState) (k : Nat) (b : List Byte) : State := { readyIn w b with sinkScript := [.fail k] }

/-- The same with one host action pending. -/
def pending (a : HostAction) : State := { ready [0x46, 0x41, 0x3B] with inbox := [a] }

/-- The next state of an outcome that is one. -/
def nextOf (o : Host.Outcome State Fault Refusal) : Option State :=
  match o with
  | .next t => some t
  | .fault _ => none
  | .refused _ => none

/-- FCODE and FINFO of the next state. -/
def faultOf (o : Host.Outcome State Fault Refusal) : Option (Option FaultCode × BitVec 32) :=
  (nextOf o).map (fun t => (t.fcode, t.finfo))

/-! ## The spec's vectors -/

/-- R271: the codes in the order of the table. -/
theorem test_fault_codes :
    [FaultCode.illegalCommand, .unwrittenOperand, .lengthOverflow, .bufferOverflow, .nonAscii, .sequence,
      .timestampRange, .ioError].map FaultCode.code = [1, 2, 3, 4, 5, 6, 7, 8] := by decide
/-- R310 and R41: RESET makes REFUSED false, and the mark that R41 keeps stays. -/
theorem test_reset_after_refusal :
    (nextOf (step { pending .reset with refused := true, everRefused := true })).map
      (fun t => (t.refused, t.everRefused)) = some (false, true) := rfl

/-- V-C5: an odd length. -/
theorem test_csum_odd_length :
    (nextOf (exec (.csum .a) (ready [0x12, 0x34, 0x56]))).bind State.csumr = some 0x97CB := by decide +kernel
/-- V-C7: two folds. -/
theorem test_csum_two_folds :
    (nextOf (exec (.csum .y) (ready [0xFF, 0xFF, 0xFF, 0xFF, 0x00, 0x01]))).bind State.csumr = some 0xFFFE := by
  decide +kernel
/-- V-E1. -/
theorem test_eth_frame : buildEthernet 0x020000000001 0x020000000002 [0xAA] =
    [0x02, 0x00, 0x00, 0x00, 0x00, 0x01, 0x02, 0x00, 0x00, 0x00, 0x00, 0x02, 0x08, 0x00, 0xAA] := by decide
/-- V-E4: DMAC is the operand reported. -/
theorem test_eth_unwritten_dmac :
    faultOf (exec (.eth .a) { State.reset with bufA := some [0x78] }) = some (some .unwrittenOperand, 0) := by
  decide +kernel
/-- V-I1, with `P_IP_ID` = 0. -/
theorem test_ipv4_header : (ipv4Packet 0 0xC0A80134 0xC0A8496C 6 (List.replicate 23 0)).take 20 =
    [0x45, 0x00, 0x00, 0x2B, 0x00, 0x00, 0x40, 0x00, 0x40, 0x06, 0x6E, 0xDC, 0xC0, 0xA8, 0x01, 0x34, 0xC0, 0xA8, 0x49,
     0x6C] := by decide +kernel
/-- V-I6: PROTO = 17. -/
theorem test_ipv4_other_protocol : ipv4Packet 0 0x0A000001 0x0A000002 17 [] =
    [0x45, 0x00, 0x00, 0x14, 0x00, 0x00, 0x40, 0x00, 0x40, 0x11, 0x26, 0xD7, 0x0A, 0x00, 0x00, 0x01, 0x0A, 0x00, 0x00,
     0x02] := by decide +kernel
/-- V-T1. -/
theorem test_tcp_segment : buildTCP 54000 9200 1000 2000 0x18 [0x46, 0x41, 0x3B] =
    [0xD2, 0xF0, 0x23, 0xF0, 0x00, 0x00, 0x03, 0xE8, 0x00, 0x00, 0x07, 0xD0, 0x50, 0x18, 0xFF, 0xFF, 0x00, 0x00, 0x00,
     0x00, 0x46, 0x41, 0x3B] := by decide
/-- V-T3: the flags byte is not validated. -/
theorem test_tcp_any_flags : buildTCP 0 65535 0xFFFFFFFF 0 0xFF [] =
    [0x00, 0x00, 0xFF, 0xFF, 0xFF, 0xFF, 0xFF, 0xFF, 0x00, 0x00, 0x00, 0x00, 0x50, 0xFF, 0xFF, 0xFF, 0x00, 0x00, 0x00,
     0x00] := by decide
/-- V-F1: bytes 14 to 33 of the 57, with the vectors' parameters. -/
theorem test_frame_bytes :
    (buildFrame 0 0x020000000001 0x020000000002 0xC0A80134 0xC0A8496C 54000 9200 1000 2000 0x18
      [0x46, 0x41, 0x3B]).toOption.map (fun y => (y.length, (y.drop 14).take 20)) =
    some (57, [0x45, 0x00, 0x00, 0x2B, 0x00, 0x00, 0x40, 0x00, 0x40, 0x06, 0x6E, 0xDC, 0xC0, 0xA8, 0x01, 0x34, 0xC0, 0xA8,
      0x49, 0x6C]) := by decide +kernel
/-- V-F3. -/
theorem test_frame_non_ascii :
    faultOf (exec (.frame .a) (ready [0x46, 0xC3, 0x41])) = some (some .nonAscii, 1) := by decide +kernel
/-- V-W24. -/
theorem test_open_sink_fails : faultOf (exec .openFile (failing .closed 7 [])) = some (some .ioError, 0) := by
  decide +kernel
/-- V-W20. -/
theorem test_open_twice : faultOf (exec .openFile (readyIn .opened [])) = some (some .sequence, 1) := by
  decide +kernel
/-- V-W23: the sink fails after 10 bytes. -/
theorem test_ghdr_partial : (nextOf (exec .ghdr (failing .opened 10 []))).map (fun t => (t.stream, t.finfo, t.wstate)) =
    some ([0xD4, 0xC3, 0xB2, 0xA1, 0x02, 0x00, 0x04, 0x00, 0x00, 0x00], 10, .opened) := by decide +kernel
/-- V-W17. -/
theorem test_ghdr_while_closed : faultOf (exec .ghdr State.reset) = some (some .sequence, 0) := by decide +kernel
/-- V-S3, with an empty frame (V-W1). -/
theorem test_wrec_record : (nextOf (exec (.wrec .a) (readyIn .header []))).map State.stream =
    some [0xE8, 0x03, 0x00, 0x00, 0x20, 0xA1, 0x07, 0x00, 0, 0, 0, 0, 0, 0, 0, 0] := by decide +kernel
/-- V-W13: 2^32 seconds are out of range. -/
theorem test_wrec_out_of_range :
    faultOf (exec (.wrec .a) { readyIn .header [] with regs := { scenarioRegs with ts := some 0x41F0000000000000 } }) =
      some (some .timestampRange, 0x41F00000) := by decide +kernel
/-- V-W12: the largest second and microsecond. -/
theorem test_timestamp_largest :
    (wholeSeconds 0x41EFFFFFFFFFFFFE, microseconds 0x41EFFFFFFFFFFFFE) = (4294967295, 999999) := by decide +kernel
/-- V-W5: 0.3 rounds up to a whole microsecond in the product. -/
theorem test_timestamp_rounds_product : microseconds 0x3FD3333333333333 = 300000 := by decide +kernel
/-- V-W22: CLOSE right after the header. -/
theorem test_close_empty_file : (nextOf (exec .closeFile (readyIn .header []))).map State.wstate = some .closed := by
  decide +kernel
/-- V-W19. -/
theorem test_close_without_header : faultOf (exec .closeFile (readyIn .opened [])) = some (some .sequence, 1) := by
  decide +kernel
/-- R99: the text of IPV4.Y, and its word. -/
theorem test_asm_command : parseLine "  IPV4.Y   ; 0x00000103".toList = some [.issue 0x00000103] := by decide +kernel
/-- R100, R22: a dotted address, from P1. -/
theorem test_asm_set_address : parseLine "SET SIP, 192.168.1.52 ; 0xC0A80134".toList = some [.set 2 0xC0A80134] := by
  decide +kernel
/-- R100: a decimal real, from P1; the nearest binary64 of 1000.5. -/
theorem test_asm_set_real : parseLine "SET TS, 1000.5".toList = some [.set 10 0x408F440000000000] := by decide +kernel
/-- R100: a `;` inside the quotes is text, from P1. -/
theorem test_asm_load_text : parseLine "LOAD_A \"FA;\" ; 46 41 3B".toList = some [.loadA [0x46, 0x41, 0x3B]] := by
  decide +kernel

/-! ## Witnesses: for each statement, states and operands that meet its hypotheses -/

theorem witness_OpcodeRowsDoNotOverlap : ∃ (c : CommandWord) (r q : OpcodeRow), r ∈ opcodeTable ∧ q ∈ opcodeTable ∧
    r.selectedBy c = true ∧ q.selectedBy c = true :=
  ⟨0x00000001, _, _, List.mem_cons_self, List.mem_cons_self, rfl, rfl⟩

/-- One word for each of R97's items: an OP just past the assigned ones, a RES bit, YSRC on CLOSE. -/
theorem witness_IllegalWordRaisesIllegalCommand :
    (∃ (s : State) (c : CommandWord) (rest : List HostAction), s.inbox = .issue c :: rest ∧ s.fcode = none ∧ ∀ r ∈ opcodeTable, c &&& r.mask ≠ r.pattern) ∧
    (∃ (s : State) (c : CommandWord) (rest : List HostAction), s.inbox = .issue c :: rest ∧ s.fcode = none ∧
      opField c ∉ [0x01, 0x02, 0x03, 0x04, 0x05, 0x10, 0x11, 0x12, 0x13]) ∧
    (∃ (s : State) (c : CommandWord) (rest : List HostAction), s.inbox = .issue c :: rest ∧ s.fcode = none ∧ resField c ≠ 0) ∧
    (∃ (s : State) (c : CommandWord) (rest : List HostAction), s.inbox = .issue c :: rest ∧ s.fcode = none ∧ ysrcField c = 1 ∧ opField c ∈ [0x10, 0x11, 0x13]) :=
  ⟨⟨pending (.issue 0x00000014), 0x00000014, [], rfl, rfl, by decide +kernel⟩,
   ⟨pending (.issue 0x00000014), 0x00000014, [], rfl, rfl, by decide +kernel⟩,
   ⟨pending (.issue 0x80000001), 0x80000001, [], rfl, rfl, by decide +kernel⟩,
   ⟨pending (.issue 0x00000113), 0x00000113, [], rfl, rfl, by decide +kernel, by decide +kernel⟩⟩

theorem witness_StepRunsDecodedCommand : ∃ (s : State) (c : CommandWord) (rest : List HostAction) (i : Instr), s.inbox = .issue c :: rest ∧ decode c = .ok i :=
  ⟨pending (.issue 0x00000112), 0x00000112, [], .wrec .y, rfl, rfl⟩

theorem witness_EveryStepCompletes : ∃ s : State, s.inbox = [] := ⟨State.reset, rfl⟩

theorem witness_HostWritesRegistersAndA :
    (∃ (s : State) (i : BitVec 8) (r : ArgReg) (v : Nat) (rest : List HostAction), s.inbox = .set i v :: rest ∧
      r.index = i.toNat ∧ v < 2 ^ r.width ∧ v + 1 = 2 ^ r.width) ∧
    (∃ (s : State) (b : List Byte) (rest : List HostAction), s.inbox = .loadA b :: rest ∧
      b.length ≤ Config.bufMax ∧ b.length = Config.bufMax) :=
  ⟨⟨pending (.set 10 (2 ^ 64 - 1)), 10, .ts, 2 ^ 64 - 1, [], rfl, rfl, by decide, by decide⟩,
   ⟨pending (.loadA (List.replicate Config.bufMax 0)), _, [], rfl, Nat.le_of_eq List.length_replicate,
    List.length_replicate⟩⟩

/-- Each target once written and, where it can be, once unwritten. -/
theorem witness_HostReadAnswersCurrentValue :
    (∀ x : ReadTarget, ∃ (s : State) (rest : List HostAction), s.inbox = .read x :: rest) ∧
    (∃ (s : State) (rest : List HostAction), s.inbox = .read .y :: rest ∧ s.bufY = none) ∧ (∃ (s : State) (rest : List HostAction) (b : List Byte), s.inbox = .read .y :: rest ∧ s.bufY = some b) ∧
    (∃ (s : State) (rest : List HostAction), s.inbox = .read .csumr :: rest ∧ s.csumr = none) ∧
    (∃ (s : State) (rest : List HostAction) (v : BitVec 16), s.inbox = .read .csumr :: rest ∧ s.csumr = some v) ∧
    (∃ (s : State) (rest : List HostAction) (r : ArgReg), s.inbox = .read (.reg r) :: rest ∧ s.regs.get r = none) ∧
    (∃ (s : State) (rest : List HostAction) (r : ArgReg) (v : Nat), s.inbox = .read (.reg r) :: rest ∧ s.regs.get r = some v) :=
  ⟨fun x => ⟨pending (.read x), [], rfl⟩,
   ⟨{ State.reset with inbox := [.read .y] }, [], rfl, rfl⟩, ⟨pending (.read .y), [], _, rfl, rfl⟩,
   ⟨pending (.read .csumr), [], rfl, rfl⟩, ⟨{ pending (.read .csumr) with csumr := some 0 }, [], _, rfl, rfl⟩,
   ⟨{ State.reset with inbox := [.read (.reg .dmac)] }, [], .dmac, rfl, rfl⟩,
   ⟨pending (.read (.reg .ts)), [], .ts, _, rfl, rfl⟩⟩

theorem witness_RefusedActionsOnlySetTheMark :
    (∃ (s : State) (a : HostAction) (rest : List HostAction), s.inbox = a :: rest ∧ ∃ i v, a = HostAction.set i v ∧ 11 ≤ i.toNat) ∧
    (∃ (s : State) (a : HostAction) (rest : List HostAction), s.inbox = a :: rest ∧
      ∃ i v r, a = HostAction.set i v ∧ ArgReg.index r = i.toNat ∧ 2 ^ r.width ≤ v) ∧
    (∃ (s : State) (a : HostAction) (rest : List HostAction), s.inbox = a :: rest ∧ ∃ b, a = HostAction.loadA b ∧ Config.bufMax < b.length) ∧
    (∃ (s : State) (a : HostAction) (rest : List HostAction), s.inbox = a :: rest ∧ a = HostAction.outside) ∧
    (∃ s t : State, s.everRefused = true ∧ step s = .next t ∧ s.inbox.head? = some .reset) :=
  ⟨⟨pending (.set 11 0), _, [], rfl, 11, 0, rfl, by decide⟩,
   ⟨pending (.set 9 256), _, [], rfl, 9, 256, .proto, rfl, rfl, by decide⟩,
   ⟨pending (.loadA (List.replicate (Config.bufMax + 1) 0)), _, [], rfl, _, rfl,
    Nat.lt_of_lt_of_eq (Nat.lt_succ_self _) List.length_replicate.symm⟩,
   ⟨pending .outside, _, [], rfl, rfl⟩,
   ⟨{ pending .reset with everRefused := true }, _, rfl, rfl, rfl⟩⟩

theorem witness_ResetActionRestoresResetValues :
    ∃ (s : State) (rest : List HostAction), s.inbox = .reset :: rest ∧ s.refused = true :=
  ⟨{ pending .reset with refused := true }, [], rfl, rfl⟩

theorem witness_ResetStateHoldsTheTable : ∃ r : ArgReg, r ≠ .proto := ⟨.ts, by decide⟩

theorem witness_StatusFieldsReadAsNumbered :
    (∃ s : State, s.wstate = .closed) ∧ (∃ s : State, s.wstate = .opened) ∧ (∃ s : State, s.wstate = .header) ∧
    ∀ f : FaultCode, ∃ s : State, s.fcode = some f :=
  ⟨⟨readyIn .closed [], rfl⟩, ⟨readyIn .opened [], rfl⟩, ⟨readyIn .header [], rfl⟩,
   fun f => ⟨{ State.reset with fcode := some f }, rfl⟩⟩

theorem witness_StandingFaultDiscardsEveryIssue :
    (∃ (s : State) (f : FaultCode) (rest : List HostAction) (c : CommandWord), s.fcode = some f ∧ s.inbox = .issue c :: rest) ∧
    (∃ (s : State) (f : FaultCode) (rest : List HostAction) (i : BitVec 8) (v : Nat) (r : ArgReg), s.fcode = some f ∧
      s.inbox = .set i v :: rest ∧ r.index = i.toNat ∧ v < 2 ^ r.width) ∧
    (∃ (s : State) (f : FaultCode) (rest : List HostAction) (b : List Byte), s.fcode = some f ∧
      s.inbox = .loadA b :: rest ∧ b.length ≤ Config.bufMax) ∧
    (∃ (s : State) (f : FaultCode) (rest : List HostAction) (x : ReadTarget), s.fcode = some f ∧ s.inbox = .read x :: rest) :=
  ⟨⟨{ pending (.issue 0) with fcode := some .ioError }, _, [], 0, rfl, rfl⟩,
   ⟨{ pending (.set 0 5) with fcode := some .ioError }, _, [], 0, 5, .dmac, rfl, rfl, rfl, by decide⟩,
   ⟨{ pending (.loadA []) with fcode := some .ioError }, _, [], [], rfl, rfl, Nat.zero_le _⟩,
   ⟨{ pending (.read .finfo) with fcode := some .ioError }, _, [], .finfo, rfl, rfl⟩⟩

theorem witness_OnlyResetClearsAFault :
    (∃ (s t : State) (f : FaultCode), s.fcode = some f ∧ step s = .next t ∧ s.inbox.head? = some .reset) ∧
    (∃ (s t : State) (f : FaultCode), s.fcode = some f ∧ step s = .next t ∧ s.inbox.head? ≠ some .reset) :=
  ⟨⟨{ pending .reset with fcode := some .sequence }, _, .sequence, rfl, rfl, rfl⟩,
   ⟨{ pending (.issue 1) with fcode := some .sequence }, _, .sequence, rfl, rfl, by decide⟩⟩

theorem witness_CommandsRaiseOnlyTheirListedFaults :
    ∃ i s t f, s.fcode = none ∧ exec i s = .next t ∧ t.fcode = some f :=
  ⟨.closeFile, State.reset, _, .sequence, rfl, rfl, rfl⟩

/-- An IO_ERROR with every byte taken, and another fault. -/
theorem witness_FaultEntryChangesNothingElse :
    (∃ i s t, s.fcode = none ∧ exec i s = .next t ∧ t.fcode = some .ioError) ∧
    (∃ i s t f, s.fcode = none ∧ exec i s = .next t ∧ t.fcode = some f ∧ f ≠ .ioError) :=
  ⟨⟨.ghdr, failing .opened 24 [], _, rfl, rfl, rfl⟩,
   ⟨.csum .a, State.reset, _, .unwrittenOperand, rfl, rfl, rfl, by decide⟩⟩

theorem witness_InfoWordHoldsTheNumber : ∃ n : Nat, n < 2 ^ 32 ∧ n + 1 = 2 ^ 32 := ⟨2 ^ 32 - 1, by decide, by decide⟩

/-- The first operand in R24's order and the last, for commands with and without a writer state. -/
theorem witness_UnwrittenOperandIsReportedFirst :
    (∃ (i : Instr) (s : State) (id : Nat), s.fcode = none ∧ (∀ w, Claims.neededState i = some w → s.wstate = w) ∧
      (Claims.unwrittenIds i s).head? = some id ∧ id = 0x101) ∧
    (∃ (i : Instr) (s : State) (id : Nat), s.fcode = none ∧ (∀ w, Claims.neededState i = some w → s.wstate = w) ∧
      (Claims.unwrittenIds i s).head? = some id ∧ id = 10) :=
  ⟨⟨.csum .y, State.reset, 0x101, rfl, by simp [Claims.neededState], rfl, rfl⟩,
   ⟨.wrec .a, { readyIn .header [] with regs := { scenarioRegs with ts := none } }, 10, rfl,
    fun _ h => Option.some.inj h, rfl, rfl⟩⟩

theorem witness_WrongWriterStateRaisesSequence :
    (∃ s : State, s.fcode = none ∧ Claims.neededState .openFile = some .closed ∧ s.wstate ≠ .closed) ∧
    (∃ s : State, s.fcode = none ∧ Claims.neededState .ghdr = some .opened ∧ s.wstate ≠ .opened) ∧
    (∃ s : State, s.fcode = none ∧ Claims.neededState (.wrec .y) = some .header ∧ s.wstate ≠ .header) ∧
    (∃ s : State, s.fcode = none ∧ Claims.neededState .closeFile = some .header ∧ s.wstate ≠ .header) :=
  ⟨⟨readyIn .header [], rfl, rfl, by decide⟩, ⟨readyIn .header [], rfl, rfl, by decide⟩,
   ⟨readyIn .opened [], rfl, rfl, by decide⟩, ⟨State.reset, rfl, rfl, by decide⟩⟩

theorem witness_CommandsNeverWriteTheirArguments :
    (∃ i s t, exec i s = .next t) ∧
    (∃ src s s' t t', s.regs = s'.regs ∧ s.buffer src = s'.buffer src ∧ s.fcode = none ∧ s'.fcode = none ∧ s ≠ s' ∧
      exec (.ipv4 src) s = .next t ∧ exec (.ipv4 src) s' = .next t' ∧ t.fcode = none) :=
  ⟨⟨.closeFile, State.reset, _, rfl⟩,
   ⟨.a, ready [], readyIn .header [], _, _, rfl, rfl, rfl, rfl, by decide +kernel, rfl, rfl, rfl⟩⟩

theorem witness_BuilderCommandsFrame :
    (∃ src s t, exec (.csum src) s = .next t) ∧
    (∃ src s t i, i ∈ [Instr.eth src, .ipv4 src, .tcp src, .frame src] ∧ exec i s = .next t) :=
  ⟨⟨.a, ready [], _, rfl⟩, ⟨.a, ready [], _, .frame .a, by simp, rfl⟩⟩

theorem witness_WriterCommandsFrame :
    ∃ src s t i, i ∈ [Instr.openFile, .ghdr, .wrec src, .closeFile] ∧ exec i s = .next t :=
  ⟨.a, readyIn .header [], _, .wrec .a, by simp, rfl⟩

theorem witness_BuildersAreIdempotent :
    ∃ src s s' t t' i, s.regs = s'.regs ∧ s.buffer src = s'.buffer src ∧ s.fcode = none ∧ s'.fcode = none ∧
      i ∈ [Instr.csum src, .eth src, .ipv4 src, .tcp src, .frame src] ∧ exec i s = .next t ∧ exec i s' = .next t' ∧
      t.fcode = none :=
  ⟨.a, ready [], readyIn .header [], _, _, .csum .a, rfl, rfl, rfl, rfl, by simp, rfl, rfl, rfl⟩

theorem witness_OnlyTheirCommandsWriteYAndCsumr :
    (∃ s t : State, step s = .next t ∧ t.bufY ≠ s.bufY) ∧ (∃ s t : State, step s = .next t ∧ t.csumr ≠ s.csumr) :=
  ⟨⟨pending .reset, _, rfl, by decide +kernel⟩, ⟨pending (.issue 0x00000001), _, rfl, by decide +kernel⟩⟩

theorem witness_WriterStateMovesOnlyAsTabled :
    (∃ s t : State, step s = .next t ∧ t.wstate ≠ s.wstate ∧ s.inbox.head? = some .reset) ∧
    (∃ s t : State, step s = .next t ∧ t.wstate ≠ s.wstate ∧ s.inbox.head? = some (.issue 0x00000010)) ∧
    (∃ s t : State, step s = .next t ∧ t.wstate ≠ s.wstate ∧ s.inbox.head? = some (.issue 0x00000011)) ∧
    (∃ s t : State, step s = .next t ∧ t.wstate ≠ s.wstate ∧ s.inbox.head? = some (.issue 0x00000013)) :=
  ⟨⟨{ pending .reset with wstate := .header }, _, rfl, by decide +kernel, rfl⟩,
   ⟨pending (.issue 0x00000010), _, rfl, by decide +kernel, rfl⟩,
   ⟨{ pending (.issue 0x00000011) with wstate := .opened }, _, rfl, by decide +kernel, rfl⟩,
   ⟨{ pending (.issue 0x00000013) with wstate := .header }, _, rfl, by decide +kernel, rfl⟩⟩

theorem witness_StreamIsAppendOnly :
    ∃ s t : State, step s = .next t ∧ s.inbox.head? ≠ some .reset ∧
      ¬ (s.inbox.head? = some (.issue 0x00000010) ∧ s.wstate = .closed ∧ s.fcode = none) ∧ t.stream ≠ s.stream :=
  ⟨{ pending (.issue 0x00000011) with wstate := .opened }, _, rfl, by decide, by decide +kernel, by decide +kernel⟩

/-- A good state that no reset is: a file with no records, open, and a WREC pending. -/
def goodState : State := { pending (.issue 0x00000012) with wstate := .header, stream := globalHeader }

theorem goodState_inv : goodState.Inv :=
  ⟨by
      have h : [0x46, 0x41, 0x3B].length ≤ Config.bufMax := Nat.le_trans (by decide) bufMax_ge
      exact memory_wf_iff.mpr ⟨bufferFits_some.mpr h, bufferFits_some.mpr h⟩,
   by decide, fun _ => rfl, ⟨[], by simp, rfl⟩⟩

theorem witness_EveryStepKeepsTheInvariant : ∃ s t : State, s.Inv ∧ step s = .next t :=
  ⟨goodState, _, goodState_inv, rfl⟩

theorem witness_CsumWritesTheChecksum : ∃ (src : Buffer) (s : State) (b : List Byte), s.fcode = none ∧ s.buffer src = some b :=
  ⟨.y, ready [], [], rfl, rfl⟩

/-- The bounds where FoldLoopEnds' clauses begin: 0x10000, and the largest sum of 0x10000 words. -/
theorem witness_FoldLoopEnds : (∃ S, 0x10000 ≤ S ∧ foldOnce S = 1) ∧
    (∃ w S, w ≤ 0x10000 ∧ S ≤ w * 0xFFFF ∧ foldOnce S = 0xFFFF) :=
  ⟨⟨0x10000, by decide, by decide⟩, ⟨0x10000, 0xFFFF0000, by decide, by decide, by decide⟩⟩

/-- V-C12 and V-C13: an all-zero sequence, and a non-zero multiple of 0xFFFF. -/
theorem witness_ChecksumRange :
    (∃ b : List Byte, wordSum b = 0) ∧
    (∃ b : List Byte, wordSum b ≠ 0 ∧ (∃ x ∈ b, x ≠ 0) ∧ wordSum b % 0xFFFF = 0) :=
  ⟨⟨[0, 0, 0, 0], by decide⟩, ⟨List.replicate 20 0xFF, by decide +kernel, by decide +kernel, by decide +kernel⟩⟩

theorem witness_ChecksumIsEndAroundCarry :
    (∃ b b' : List Byte, b ≠ b' ∧ (beWords (padEven b)).Perm (beWords (padEven b'))) ∧ ∃ b : List Byte, wordSum b ≠ 0 :=
  ⟨⟨[1, 2, 3, 4], [3, 4, 1, 2], by decide, by decide⟩, ⟨[1], by decide⟩⟩

/-- The longest operand ETH takes. -/
theorem witness_EthWritesTheFrame :
    ∃ (src : Buffer) (s : State) (b : List Byte) (d m : BitVec 48), s.fcode = none ∧ s.buffer src = some b ∧
      s.regs.dmac = some d ∧ s.regs.smac = some m ∧ b.length + 14 ≤ Config.bufMax ∧
      b.length + 14 = Config.bufMax := by
  refine ⟨.a, ready (List.replicate (Config.bufMax - 14) 0), _, _, _, rfl, rfl, rfl, rfl, ?_, ?_⟩ <;>
    have := bufMax_ge <;> simp <;> omega

/-- The longest payload IPV4 takes. -/
theorem witness_Ipv4WritesThePacket :
    ∃ (src : Buffer) (s : State) (b : List Byte) (sip dip : BitVec 32) (proto : BitVec 8), s.fcode = none ∧
      s.buffer src = some b ∧ s.regs.sip = some sip ∧ s.regs.dip = some dip ∧ s.regs.proto = some proto ∧
      b.length ≤ 65515 ∧ b.length = 65515 :=
  ⟨.a, ready (List.replicate 65515 0), _, _, _, _, rfl, rfl, rfl, rfl, rfl, Nat.le_of_eq List.length_replicate, List.length_replicate⟩

/-- The longest operand TCP takes. -/
theorem witness_TcpWritesTheSegment :
    ∃ (src : Buffer) (s : State) (b : List Byte) (sp dp : BitVec 16) (seq ack : BitVec 32) (fl : BitVec 8),
      s.fcode = none ∧ s.buffer src = some b ∧ s.regs.sport = some sp ∧ s.regs.dport = some dp ∧
      s.regs.seq = some seq ∧ s.regs.ack = some ack ∧ s.regs.tflags = some fl ∧
      b.length + 20 ≤ Config.bufMax ∧ b.length + 20 = Config.bufMax := by
  refine ⟨.y, ready (List.replicate (Config.bufMax - 20) 0), _, _, _, _, _, _, rfl, rfl, rfl, rfl, rfl, rfl, rfl, ?_, ?_⟩ <;>
    have := bufMax_ge <;> simp <;> omega

/-- One byte more than ETH, and than TCP, takes. -/
theorem witness_OverlongResultRaisesBufferOverflow :
    (∃ (src : Buffer) (s : State) (b : List Byte), s.fcode = none ∧ s.buffer src = some b ∧ s.regs.dmac ≠ none ∧
      s.regs.smac ≠ none ∧ Config.bufMax < b.length + 14 ∧ b.length + 13 = Config.bufMax) ∧
    (∃ (src : Buffer) (s : State) (b : List Byte), s.fcode = none ∧ s.buffer src = some b ∧ s.regs.sport ≠ none ∧
      s.regs.dport ≠ none ∧ s.regs.seq ≠ none ∧ s.regs.ack ≠ none ∧ s.regs.tflags ≠ none ∧
      Config.bufMax < b.length + 20 ∧ b.length + 19 = Config.bufMax) := by
  refine ⟨⟨.a, ready (List.replicate (Config.bufMax - 13) 0), _, rfl, rfl, nofun, nofun, ?_, ?_⟩,
    ⟨.a, ready (List.replicate (Config.bufMax - 19) 0), _, rfl, rfl, nofun, nofun, nofun, nofun, nofun, ?_, ?_⟩⟩ <;>
    have := bufMax_ge <;> simp <;> omega

/-- One byte more than IPV4, and than FRAME, takes. -/
theorem witness_OverlongPayloadRaisesLengthOverflow :
    (∃ (src : Buffer) (s : State) (b : List Byte), s.fcode = none ∧ s.buffer src = some b ∧
      (∀ r ∈ Claims.regsRead (.ipv4 src), s.regs.get r ≠ none) ∧ 65515 < b.length ∧ b.length = 65516) ∧
    (∃ (src : Buffer) (s : State) (b : List Byte), s.fcode = none ∧ s.buffer src = some b ∧
      (∀ r ∈ Claims.regsRead (.frame src), s.regs.get r ≠ none) ∧ (∀ x ∈ b, x.toNat < 0x80) ∧ 65495 < b.length ∧
      b.length = 65496) :=
  ⟨⟨.a, ready (List.replicate 65516 0), _, rfl, rfl,
    show ∀ r ∈ Claims.regsRead (.ipv4 .a), scenarioRegs.get r ≠ none by decide,
    Nat.lt_of_lt_of_eq (Nat.lt_succ_self 65515) List.length_replicate.symm, List.length_replicate⟩,
   ⟨.a, ready (List.replicate 65496 0x41), _, rfl, rfl,
    show ∀ r ∈ Claims.regsRead (.frame .a), scenarioRegs.get r ≠ none by decide,
    fun x hx => by rw [List.eq_of_mem_replicate hx]; decide,
    Nat.lt_of_lt_of_eq (Nat.lt_succ_self 65495) List.length_replicate.symm, List.length_replicate⟩⟩

theorem witness_Ipv4LengthLaws :
    ∃ (src : Buffer) (s t : State) (b : List Byte), s.fcode = none ∧ s.buffer src = some b ∧ exec (.ipv4 src) s = .next t ∧ t.fcode = none :=
  ⟨.a, ready [], _, [], rfl, rfl, rfl, rfl⟩

/-- The result of a TCP command on an empty operand fits every capacity. -/
theorem tcp_ready_completes : (runCommand (tcpResult .a) State.withY (ready [])).fcode = none := by
  have h : tcpResult .a (ready []) = .ok (buildTCP 54000 9200 1000 2000 0x18 []) :=
    fitsBuffer_eq_ok.mpr ⟨rfl, Nat.le_trans (by decide) bufMax_ge⟩
  rw [runCommand_ok rfl h]
  rfl

theorem witness_TcpLengthLaw :
    ∃ (src : Buffer) (s t : State) (b : List Byte), s.fcode = none ∧ s.buffer src = some b ∧ exec (.tcp src) s = .next t ∧ t.fcode = none :=
  ⟨.a, ready [], _, [], rfl, rfl, rfl, tcp_ready_completes⟩

/-- The longest payload FRAME takes. -/
theorem witness_FrameWritesTheFrame :
    ∃ (src : Buffer) (s : State) (b : List Byte) (sip dip : BitVec 32) (sp dp : BitVec 16) (seq ack : BitVec 32)
      (fl : BitVec 8), s.fcode = none ∧ s.buffer src = some b ∧ s.regs.sip = some sip ∧ s.regs.dip = some dip ∧
      s.regs.sport = some sp ∧ s.regs.dport = some dp ∧ s.regs.seq = some seq ∧ s.regs.ack = some ack ∧
      s.regs.tflags = some fl ∧ (∀ x ∈ b, x.toNat < 0x80) ∧ b.length ≤ 65495 ∧ b.length = 65495 :=
  ⟨.a, ready (List.replicate 65495 0x7F), _, _, _, _, _, _, _, _, rfl, rfl, rfl, rfl, rfl, rfl, rfl, rfl, rfl,
    fun x hx => by rw [List.eq_of_mem_replicate hx]; decide, Nat.le_of_eq List.length_replicate,
    List.length_replicate⟩

/-- V-F3's payload: 0x80 or more at index 1. -/
theorem witness_NonAsciiPayloadIsReported :
    ∃ (src : Buffer) (s : State) (b : List Byte) (k : Nat) (x : Byte), s.fcode = none ∧ s.buffer src = some b ∧
      (∀ r ∈ Claims.regsRead (.frame src), s.regs.get r ≠ none) ∧ b[k]? = some x ∧ 0x80 ≤ x.toNat ∧
      (∀ j y, j < k → b[j]? = some y → y.toNat < 0x80) :=
  ⟨.a, ready [0x46, 0xC3, 0x41], _, 1, 0xC3, rfl, rfl, by decide, rfl, by decide,
    fun j y hj hy => by
      obtain rfl : j = 0 := by omega
      obtain rfl : 0x46 = y := Option.some.inj hy
      decide⟩

theorem witness_FrameLengthLaw :
    ∃ (src : Buffer) (s t : State) (b : List Byte), s.fcode = none ∧ s.buffer src = some b ∧ exec (.frame src) s = .next t ∧ t.fcode = none :=
  ⟨.a, ready [], _, [], rfl, rfl, rfl, rfl⟩

theorem witness_FrameEqualsTheExplicitChain :
    ∃ (s : State) (b : List Byte), s.fcode = none ∧ s.bufA = some b ∧ s.regs.proto = some 6 ∧
      s.regs.dmac = some Config.frameDmac ∧ s.regs.smac = some Config.frameSmac ∧
      (∀ r ∈ Claims.regsRead (.frame .a), s.regs.get r ≠ none) ∧ (∀ x ∈ b, x.toNat < 0x80) ∧ b.length ≤ 65495 :=
  ⟨{ ready [0x46, 0x41, 0x3B] with
      regs := { scenarioRegs with dmac := some Config.frameDmac, smac := some Config.frameSmac } }, _,
    rfl, rfl, rfl, rfl, rfl, by simp [Claims.regsRead, Regs.get, scenarioRegs], by decide, by decide⟩

theorem witness_FrameIgnoresOtherRegisters :
    ∃ (src : Buffer) (s t : State), exec (.frame src) s = .next t ∧ s.fcode = none ∧ t.fcode = none :=
  ⟨.a, ready [], _, rfl, rfl, rfl⟩

theorem witness_OpenStartsAFile : ∃ s : State, s.fcode = none ∧ s.wstate = .closed ∧ s.sinkAnswer = .ok :=
  ⟨ready [], rfl, rfl, rfl⟩

theorem witness_GhdrAppendsTheGlobalHeader : ∃ s : State, s.fcode = none ∧ s.wstate = .opened ∧ s.sinkAnswer = .ok :=
  ⟨readyIn .opened [], rfl, rfl, rfl⟩

/-- The largest accepted timestamp. -/
theorem witness_WrecAppendsTheRecord :
    ∃ (src : Buffer) (s : State) (b : List Byte) (ts : BitVec 64), s.fcode = none ∧ s.wstate = .header ∧
      s.buffer src = some b ∧ s.regs.ts = some ts ∧ timestampOk ts = true ∧ s.sinkAnswer = .ok :=
  ⟨.a, { readyIn .header [] with regs := { scenarioRegs with ts := some 0x41EFFFFFFFFFFFFF } }, _, _, rfl, rfl, rfl,
    rfl, by decide +kernel, rfl⟩

theorem witness_CloseCompletesTheFile : ∃ s : State, s.fcode = none ∧ s.wstate = .header ∧ s.sinkAnswer = .ok :=
  ⟨readyIn .header [], rfl, rfl, rfl⟩

/-- A failure in each of the four commands, GHDR's and WREC's after every byte was taken. -/
theorem witness_SinkFailureKeepsThePrefix :
    (∃ (s : State) (k : Nat), s.fcode = none ∧ s.sinkAnswer = .fail k ∧ s.wstate = .closed) ∧
    (∃ (s : State) (k : Nat), s.fcode = none ∧ s.sinkAnswer = .fail k ∧ s.wstate = .header) ∧
    (∃ (s : State) (k : Nat), s.fcode = none ∧ s.sinkAnswer = .fail k ∧ s.wstate = .opened ∧ k ≤ 24 ∧ k = 24) ∧
    (∃ (s : State) (k : Nat) (src : Buffer) (b : List Byte) (ts : BitVec 64), s.fcode = none ∧ s.sinkAnswer = .fail k ∧ s.wstate = .header ∧ s.buffer src = some b ∧
      s.regs.ts = some ts ∧ timestampOk ts = true ∧ k ≤ 16 + b.length ∧ k = 16 + b.length) :=
  ⟨⟨failing .closed 0 [], 0, rfl, rfl, rfl⟩, ⟨failing .header 0 [], 0, rfl, rfl, rfl⟩,
   ⟨failing .opened 24 [], 24, rfl, rfl, rfl, by decide, rfl⟩,
   ⟨failing .header 16 [], 16, .a, [], _, rfl, rfl, rfl, rfl, rfl, by decide +kernel, by decide, rfl⟩⟩

/-- V-W13: the smallest positive timestamp out of range. -/
theorem witness_TimestampOutOfRangeIsReported :
    ∃ (src : Buffer) (s : State) (ts : BitVec 64), s.fcode = none ∧ s.wstate = .header ∧ s.buffer src ≠ none ∧
      s.regs.ts = some ts ∧ timestampOk ts = false :=
  ⟨.a, { readyIn .header [] with regs := { scenarioRegs with ts := some 0x41F0000000000000 } }, _, rfl, rfl, nofun, rfl,
    by decide +kernel⟩

/-- The largest accepted pattern of all, the largest below 1.0 (V-W11), and −0.0. -/
theorem witness_MicrosecondsStayBelowAMillion :
    timestampOk 0x41EFFFFFFFFFFFFF = true ∧ timestampOk 0x3FEFFFFFFFFFFFFF = true ∧
    timestampOk 0x8000000000000000 = true := by decide +kernel

/-- A tie: 2^53 + 1 is halfway between two numbers of 53 bits. -/
theorem witness_RoundingIsNearestEven :
    (2 ^ 53 + 1).log2 - 52 = 1 ∧ round64 (2 ^ 53 + 1) 1 = 2 ^ 53 := by decide +kernel

theorem witness_CompletedFileReadsBack : ∃ rs : List CaptureRecord, rs.length = 2 ∧ ∀ r ∈ rs, r.valid :=
  ⟨[⟨0, 250000, [0x46]⟩, ⟨1, 999999, []⟩], rfl, by simp [CaptureRecord.valid]⟩

theorem witness_WrecAddsOneRecordAtTheEnd :
    ∃ (src : Buffer) (s t : State) (rs : List CaptureRecord), s.Inv ∧ s.fcode = none ∧ s.stream = captureFile rs ∧
      (∀ r ∈ rs, r.valid) ∧ exec (.wrec src) s = .next t ∧ t.fcode = none :=
  ⟨.a, goodState, _, [], goodState_inv, rfl, rfl, by simp, rfl, by decide +kernel⟩

end Sys2Proof.Tests
end

/-! ## Byte order of the encoders (00_scope R10, 10_state R22)

The encoders of each width are one list of base-256 digits, `leBytes`, read in one order or the other. What a list of
bytes spells, and that it is spelled once only, is Mathlib's `Nat.ofDigits` in base 256. -/

namespace Sys2Proof.Machine

/-- The `n` lowest bytes of a value, the least significant first: the encoders of R10 for every number of bytes. -/
def leBytes {w : Nat} (v : BitVec w) (n : Nat) : List Byte := (List.range n).map (byteAt v)

theorem le16_eq_leBytes (v : BitVec 16) : le16 v = leBytes v 2 := rfl
theorem le32_eq_leBytes (v : BitVec 32) : le32 v = leBytes v 4 := rfl
theorem be16_eq_leBytes_reverse (v : BitVec 16) : be16 v = (leBytes v 2).reverse := rfl
theorem be32_eq_leBytes_reverse (v : BitVec 32) : be32 v = (leBytes v 4).reverse := rfl
theorem be48_eq_leBytes_reverse (v : BitVec 48) : be48 v = (leBytes v 6).reverse := rfl

@[simp] theorem leBytes_length {w : Nat} (v : BitVec w) (n : Nat) : (leBytes v n).length = n := by
  rw [leBytes, List.length_map, List.length_range]

theorem leNat_eq_ofDigits (b : List Byte) : leNat b = Nat.ofDigits 256 (b.map BitVec.toNat) := by
  induction b with
  | nil => rfl
  | cons x rest ih => rw [leNat, ih, List.map_cons, Nat.ofDigits_cons]

/-- Reading the most significant byte first is reading the reversed bytes least significant first. -/
@[simp] theorem packBytes_reverse (b : List Byte) : packBytes b.reverse = leNat b := by
  induction b with
  | nil => rfl
  | cons x rest ih =>
    have snoc : packBytes (rest.reverse ++ [x]) = packBytes rest.reverse * 256 + x.toNat := by
      simp only [packBytes, List.foldl_append, List.foldl_cons, List.foldl_nil]
    rw [List.reverse_cons, snoc, ih, leNat]
    omega

theorem toNat_lt_of_mem_map_toNat {b : List Byte} : ∀ d ∈ b.map BitVec.toNat, d < 256 := by
  intro d hd
  obtain ⟨x, -, rfl⟩ := List.mem_map.1 hd
  exact x.isLt

theorem leNat_lt (b : List Byte) : leNat b < 256 ^ b.length := by
  simpa [leNat_eq_ofDigits] using
    Nat.ofDigits_lt_base_pow_length (by norm_num) (toNat_lt_of_mem_map_toNat (b := b))

/-- Equally many bytes spell one number in one way only. -/
theorem eq_of_leNat_eq {b c : List Byte} (hlen : b.length = c.length) (h : leNat b = leNat c) : b = c := by
  have digits : b.map BitVec.toNat = c.map BitVec.toNat :=
    Nat.ofDigits_inj_of_len_eq (by norm_num) (by simpa using hlen) toNat_lt_of_mem_map_toNat
      toNat_lt_of_mem_map_toNat (by rwa [← leNat_eq_ofDigits, ← leNat_eq_ofDigits])
  exact List.map_injective_iff.2 (fun _ _ => BitVec.eq_of_toNat_eq) digits

/-- The `n` lowest bytes of a value spell it modulo `256 ^ n`. -/
theorem leNat_leBytes {w : Nat} (v : BitVec w) (n : Nat) : leNat (leBytes v n) = v.toNat % 256 ^ n := by
  induction n with
  | zero => rw [pow_zero, Nat.mod_one]; rfl
  | succ n ih =>
    have snoc : leNat (leBytes v n ++ [byteAt v n]) = leNat (leBytes v n) + 256 ^ n * (byteAt v n).toNat := by
      simp [leNat_eq_ofDigits, Nat.ofDigits_append]
    calc leNat (leBytes v (n + 1))
        = leNat (leBytes v n ++ [byteAt v n]) := by simp [leBytes, List.range_succ]
      _ = v.toNat % 256 ^ n + 256 ^ n * (v.toNat / 256 ^ n % 256) := by rw [snoc, ih, byteAt_toNat]
      _ = v.toNat % 256 ^ (n + 1) := by rw [pow_succ, Nat.mod_mul]

/-- All the bytes of a value spell it. -/
theorem leNat_leBytes_of_width {w n : Nat} (hw : 2 ^ w = 256 ^ n) (v : BitVec w) :
    leNat (leBytes v n) = v.toNat := by
  rw [leNat_leBytes, ← hw, Nat.mod_eq_of_lt v.isLt]

@[simp] theorem leNat_le16 (v : BitVec 16) : leNat (le16 v) = v.toNat := by
  rw [le16_eq_leBytes, leNat_leBytes_of_width (by norm_num)]

@[simp] theorem leNat_le32 (v : BitVec 32) : leNat (le32 v) = v.toNat := by
  rw [le32_eq_leBytes, leNat_leBytes_of_width (by norm_num)]

@[simp] theorem packBytes_be16 (v : BitVec 16) : packBytes (be16 v) = v.toNat := by
  rw [be16_eq_leBytes_reverse, packBytes_reverse, leNat_leBytes_of_width (by norm_num)]

@[simp] theorem packBytes_be32 (v : BitVec 32) : packBytes (be32 v) = v.toNat := by
  rw [be32_eq_leBytes_reverse, packBytes_reverse, leNat_leBytes_of_width (by norm_num)]

@[simp] theorem packBytes_be48 (v : BitVec 48) : packBytes (be48 v) = v.toNat := by
  rw [be48_eq_leBytes_reverse, packBytes_reverse, leNat_leBytes_of_width (by norm_num)]

/-- Encoding the number that `n` bytes spell gives those bytes back: both spell it, in equally many bytes. -/
theorem leBytes_ofNat_leNat {w : Nat} (b : List Byte) (hw : 2 ^ w = 256 ^ b.length) :
    leBytes (BitVec.ofNat w (leNat b)) b.length = b := by
  have fits : leNat b < 2 ^ w := hw ▸ leNat_lt b
  refine eq_of_leNat_eq (leBytes_length _ _) ?_
  rw [leNat_leBytes_of_width hw, BitVec.toNat_ofNat, Nat.mod_eq_of_lt fits]

/-- R22 for every number of bytes: the packed number encodes big-endian to the written bytes. -/
theorem leBytes_ofNat_packBytes_reverse {w : Nat} (b : List Byte) (hw : 2 ^ w = 256 ^ b.length) :
    (leBytes (BitVec.ofNat w (packBytes b)) b.length).reverse = b := by
  have h := leBytes_ofNat_leNat b.reverse (by rwa [List.length_reverse])
  rw [← packBytes_reverse, List.reverse_reverse, List.length_reverse] at h
  rw [h, List.reverse_reverse]

theorem be32_ofNat_packBytes (a b c d : Byte) :
    be32 (BitVec.ofNat 32 (packBytes [a, b, c, d])) = [a, b, c, d] :=
  leBytes_ofNat_packBytes_reverse [a, b, c, d] (by norm_num)

theorem be48_ofNat_packBytes (m0 m1 m2 m3 m4 m5 : Byte) :
    be48 (BitVec.ofNat 48 (packBytes [m0, m1, m2, m3, m4, m5])) = [m0, m1, m2, m3, m4, m5] :=
  leBytes_ofNat_packBytes_reverse [m0, m1, m2, m3, m4, m5] (by norm_num)

/-- The sum R22 writes for a dotted-decimal address. -/
theorem packBytes_four (a b c d : Byte) :
    packBytes [a, b, c, d] = a.toNat * 2 ^ 24 + b.toNat * 2 ^ 16 + c.toNat * 2 ^ 8 + d.toNat := by
  simp only [packBytes, List.foldl_cons, List.foldl_nil]
  omega

/-- The sum R22 writes for a colon-hex address. -/
theorem packBytes_six (m0 m1 m2 m3 m4 m5 : Byte) :
    packBytes [m0, m1, m2, m3, m4, m5] = m0.toNat * 2 ^ 40 + m1.toNat * 2 ^ 32 + m2.toNat * 2 ^ 24
      + m3.toNat * 2 ^ 16 + m4.toNat * 2 ^ 8 + m5.toNat := by
  simp only [packBytes, List.foldl_cons, List.foldl_nil]
  omega

/-- Settles O42: each encoder lists the base-256 digits of its value, and equally many bytes spell a number once. -/
theorem encodersKeepWrittenOrder : Obligations.EncodersKeepWrittenOrder := by
  refine ⟨fun v => ⟨packBytes_be16 v, leNat_le16 v⟩, fun v => ⟨packBytes_be32 v, leNat_le32 v⟩, packBytes_be48, ?_, ?_⟩
  · intro a b c d
    rw [← packBytes_four, be32_ofNat_packBytes]
  · intro m0 m1 m2 m3 m4 m5
    rw [← packBytes_six, be48_ofNat_packBytes]

end Sys2Proof.Machine

/-! ## The microseconds of a timestamp (43_capture_writer R242, R243)

A timestamp has 53 significant bits, so its fraction is at most `1 - 2^-53`. A million times that lies more than half a
unit of the last place below a million, and so rounds to less than a million. -/

namespace Sys2Proof.Machine

/-- `2^-53` in units of `2^-1074`, under a name so that the power is not evaluated. -/
def lastPlace : Nat := 2 ^ 1021

theorem lastPlace_pos : 0 < lastPlace := by unfold lastPlace; positivity

theorem two_pow_mul_lastPlace (k : Nat) : 2 ^ k * lastPlace = 2 ^ (k + 1021) := by rw [lastPlace, pow_add]

theorem unitsPerOne_eq : unitsPerOne = 2 ^ 53 * lastPlace := by rw [two_pow_mul_lastPlace, unitsPerOne]

theorem unitsPerOne_pos : 0 < unitsPerOne := by unfold unitsPerOne; positivity

theorem fractionField_lt (t : BitVec 64) : fractionField t < 2 ^ 52 := (t.extractLsb' 0 52).isLt

/-- The 53 significant bits of a timestamp below 1 end at `2^-53` or above, and those of a larger one at `2^-52` or
above: either way its fraction is at least `2^-53` below 1. -/
theorem magnitude_mod_le (t : BitVec 64) : magnitude t % unitsPerOne ≤ (2 ^ 53 - 1) * lastPlace := by
  have hfrac := fractionField_lt t
  rw [unitsPerOne_eq]
  rcases Nat.lt_or_ge (exponentField t) 1022 with hsmall | hlarge
  · refine (Nat.mod_le _ _).trans ?_
    unfold magnitude
    split
    · calc fractionField t ≤ (2 ^ 53 - 1) * 1 := by omega
        _ ≤ (2 ^ 53 - 1) * lastPlace := Nat.mul_le_mul_left _ lastPlace_pos
    · have hpow : 2 ^ (exponentField t - 1) ≤ lastPlace := by
        unfold lastPlace
        gcongr <;> omega
      exact Nat.mul_le_mul (by omega) hpow
  · obtain ⟨k, hk⟩ : ∃ k, exponentField t = k + 1022 := ⟨_, (Nat.sub_add_cancel hlarge).symm⟩
    have hpow : 2 ^ (exponentField t - 1) = 2 ^ k * lastPlace := by rw [two_pow_mul_lastPlace, hk]; rfl
    rw [magnitude, if_neg (by omega), hpow, ← Nat.mul_assoc, Nat.mul_mod_mul_right]
    exact Nat.mul_le_mul_right _ (Nat.le_sub_one_of_lt (Nat.mod_lt _ (by norm_num)))

theorem nearestEven_le_of_lt {num den q : Nat} (h : 2 * num < (2 * q + 1) * den) : nearestEven num den ≤ q := by
  have hdiv : 2 * (num / den) * den + 2 * (num % den) = 2 * num := by
    rw [Nat.mul_assoc, ← Nat.mul_add, Nat.div_add_mod']
  simp only [nearestEven]
  split
  · have hup : (2 * (num / den) + 1) * den < (2 * q + 1) * den := by rw [Nat.add_mul]; omega
    have := Nat.lt_of_mul_lt_mul_right hup
    omega
  · have hdown : 2 * (num / den) * den < (2 * q + 1) * den := by omega
    have := Nat.lt_of_mul_lt_mul_right hdown
    omega

/-- Numbers of `k + 53` bits round to whole numbers of `2 ^ k`. -/
theorem round64_le {n q k : Nat} (hlow : 2 ^ (k + 52) ≤ n) (hhigh : n < 2 ^ (k + 53))
    (h : 2 * n < (2 * q + 1) * 2 ^ k) : round64 n 1 ≤ q * 2 ^ k := by
  have hn : n ≠ 0 := ((Nat.two_pow_pos _).trans_le hlow).ne'
  have hlog : n.log2 = k + 52 := (Nat.log2_eq_iff hn).2 ⟨hlow, hhigh⟩
  simp only [round64, Nat.div_one, Nat.one_mul, hlog, Nat.add_sub_cancel]
  exact Nat.mul_le_mul_right _ (nearestEven_le_of_lt h)

/-- A number below `2 ^ (k + 53)` rounds to at most that: it has a `2 ^ 53` at its last place. -/
theorem round64_le_two_pow {n k : Nat} (h : n < 2 ^ (k + 53)) : round64 n 1 ≤ 2 ^ (k + 53) := by
  have hdrop : n.log2 - 52 ≤ k := by
    rcases Nat.eq_zero_or_pos n with rfl | hn
    · simp
    · have := (Nat.log2_lt hn.ne').2 h
      omega
  have hq : nearestEven n (1 * 2 ^ (n.log2 - 52)) ≤ 2 ^ 53 := by
    apply nearestEven_le_of_lt
    have hn : n < 2 ^ 53 * 2 ^ (n.log2 - 52) := by
      rw [← pow_add]
      exact Nat.lt_log2_self.trans_le (Nat.pow_le_pow_right (by norm_num) (by omega))
    omega
  simp only [round64, Nat.div_one]
  calc _ ≤ 2 ^ 53 * 2 ^ k := Nat.mul_le_mul hq (Nat.pow_le_pow_right (by norm_num) hdrop)
    _ = 2 ^ (k + 53) := by rw [← pow_add, Nat.add_comm]

/-- R243, in units: a million times the greatest fraction rounds to less than a million. Below `2^19` rounding cannot
pass `2^19`; from there to `2^20` a unit of the last place is `2^-33`, and a million is a whole number of them. -/
theorem round64_lt_million {n : Nat} (h : n ≤ (2 ^ 53 - 1) * lastPlace * 1000000) :
    round64 n 1 < 1000000 * unitsPerOne := by
  have hpos := lastPlace_pos
  rw [unitsPerOne_eq]
  rcases Nat.lt_or_ge n (2 ^ (1041 + 52)) with hlow | hhigh
  · rw [show 1041 + 52 = 1040 + 53 by norm_num] at hlow
    have := round64_le_two_pow hlow
    rw [show 1040 + 53 = 72 + 1021 by norm_num, ← two_pow_mul_lastPlace] at this
    omega
  · have hupper : n < 2 ^ (1041 + 53) := by
      rw [show 1041 + 53 = 73 + 1021 by norm_num, ← two_pow_mul_lastPlace]
      omega
    have := round64_le (q := 1000000 * 2 ^ 33 - 1) hhigh hupper (by
      rw [show 1041 = 20 + 1021 by norm_num, ← two_pow_mul_lastPlace]
      omega)
    rw [show 1041 = 20 + 1021 by norm_num, ← two_pow_mul_lastPlace] at this
    omega

theorem microseconds_le (t : BitVec 64) : microseconds t ≤ 999999 := by
  have h := round64_lt_million (Nat.mul_le_mul_right 1000000 (magnitude_mod_le t))
  have : microseconds t < 1000000 := by
    rwa [microseconds, Nat.div_lt_iff_lt_mul unitsPerOne_pos]
  omega

end Sys2Proof.Machine

/-! ## What each host action does (10_state R40 to R42)

One equation for each action, and one for each way to be refused. -/

namespace Sys2Proof.Machine

section
variable {s : State} {i : BitVec 8} {r : ArgReg} {v : Nat} {b : List Byte}

theorem accepted_set (hr : r.index = i.toNat) (hv : v < 2 ^ r.width) : HostAction.accepted (.set i v) = true := by
  simp [HostAction.accepted, ArgReg.ofIndex_index i r hr, hv]

theorem not_accepted_set_of_reserved (hi : 11 ≤ i.toNat) : HostAction.accepted (.set i v) = false := by
  simp [HostAction.accepted, ArgReg.ofIndex_reserved i hi]

theorem not_accepted_set_of_wide (hr : r.index = i.toNat) (hv : 2 ^ r.width ≤ v) :
    HostAction.accepted (.set i v) = false := by
  simp [HostAction.accepted, ArgReg.ofIndex_index i r hr, hv]

theorem accepted_loadA_iff : HostAction.accepted (.loadA b) = true ↔ b.length ≤ Config.bufMax := by
  simp [HostAction.accepted]

theorem not_accepted_loadA_iff : HostAction.accepted (.loadA b) = false ↔ Config.bufMax < b.length := by
  simp [HostAction.accepted]

theorem exists_reg_of_accepted_set (h : HostAction.accepted (.set i v) = true) : ∃ r, ArgReg.ofIndex i = some r := by
  cases hr : ArgReg.ofIndex i with
  | some r => exact ⟨r, rfl⟩
  | none => simp [HostAction.accepted, hr] at h

theorem hostEffect_reset (s : State) : hostEffect .reset s = s.afterReset := rfl

theorem hostEffect_read (x : ReadTarget) (s : State) : hostEffect (.read x) s = s.withAnswer (s.readAnswer x) := rfl

theorem hostEffect_set_of_ofIndex (hr : ArgReg.ofIndex i = some r) (ha : HostAction.accepted (.set i v) = true) :
    hostEffect (.set i v) s = s.withReg r v := by
  simp only [hostEffect, throughPort, if_pos ha, hostSet, hr]

theorem hostEffect_set (hr : r.index = i.toNat) (hv : v < 2 ^ r.width) :
    hostEffect (.set i v) s = s.withReg r v :=
  hostEffect_set_of_ofIndex (ArgReg.ofIndex_index i r hr) (accepted_set hr hv)

theorem hostEffect_loadA (hb : b.length ≤ Config.bufMax) : hostEffect (.loadA b) s = s.withA b := by
  simp only [hostEffect, throughPort, if_pos (accepted_loadA_iff.2 hb)]

theorem hostEffect_refused {a : HostAction} (h : a.accepted = false) : hostEffect a s = s.markRefused := by
  simp [hostEffect, throughPort, h]

/-- Everything a host action other than an ISSUE can do. -/
theorem hostEffect_cases {a : HostAction} (h : ∀ c, a ≠ .issue c) :
    (a = .reset ∧ hostEffect a s = s.afterReset) ∨ (∃ r v, hostEffect a s = s.withReg r v) ∨
    (∃ b, b.length ≤ Config.bufMax ∧ hostEffect a s = s.withA b) ∨ (∃ x, hostEffect a s = s.withAnswer x) ∨
    hostEffect a s = s.markRefused := by
  cases ha : a.accepted with
  | false => exact .inr (.inr (.inr (.inr (hostEffect_refused ha))))
  | true =>
    cases a with
    | reset => exact .inl ⟨rfl, rfl⟩
    | set i v =>
      obtain ⟨r, hr⟩ := exists_reg_of_accepted_set ha
      exact .inr (.inl ⟨r, v, hostEffect_set_of_ofIndex hr ha⟩)
    | loadA b =>
      have hb := accepted_loadA_iff.1 ha
      exact .inr (.inr (.inl ⟨b, hb, hostEffect_loadA hb⟩))
    | issue c => exact absurd rfl (h c)
    | read x => exact .inr (.inr (.inr (.inl ⟨_, hostEffect_read x s⟩)))
    | outside => exact absurd ha Bool.false_ne_true

end

/-! ## One step by the action it takes (10_state R40, 30_encoding R96) -/

section
variable {s : State} {rest : List HostAction}

theorem step_issue {c : CommandWord} {i : Instr} (hs : s.inbox = .issue c :: rest) (hc : decode c = .ok i) :
    step s = exec i (s.withInbox rest) := by
  simp only [step, State.nextAction, hs, hc]

theorem step_hostEffect {a : HostAction} (hs : s.inbox = a :: rest) (ha : ∀ c, a ≠ .issue c) :
    step s = .next (hostEffect a (s.withInbox rest)) := by
  cases a with
  | issue c => exact absurd rfl (ha c)
  | _ => simp only [step, State.nextAction, hs]

end
end Sys2Proof.Machine

/-! ## What the capture commands can do (43_capture_writer R221 to R250)

`checkedEffect` names the sink primitive a capture command ends in. Here each answer of the sink is spelled out. -/

namespace Sys2Proof.Machine

section
variable {src : Buffer} {s t : State}

theorem openFile_effect_cases (h : checkedEffect .openFile s t) :
    s.wstate = .closed ∧
      (t = (s.withStream []).drawSink.withWState .opened ∨ t = (s.withStream []).drawSink.raise ⟨.ioError, 0⟩) := by
  obtain ⟨hw, rfl⟩ := h
  exact ⟨hw, sinkControl_cases.imp_left And.right⟩

theorem ghdr_effect_cases (h : checkedEffect .ghdr s t) :
    s.wstate = .opened ∧
      (t = (s.drawSink.withStream (s.stream ++ globalHeader)).withWState .header ∨
        ∃ k, t = (s.drawSink.withStream (s.stream ++ globalHeader.take k)).raise ⟨.ioError, k⟩) := by
  obtain ⟨hw, rfl⟩ := h
  exact ⟨hw, sinkAppend_cases.imp And.right (Exists.imp fun _ => And.right)⟩

theorem wrec_effect_cases (h : checkedEffect (.wrec src) s t) :
    ∃ r, wrecResult src s = .ok r ∧
      (t = s.drawSink.withStream (s.stream ++ r) ∨
        ∃ k, t = (s.drawSink.withStream (s.stream ++ r.take k)).raise ⟨.ioError, k⟩) := by
  obtain ⟨r, hr, rfl⟩ := h
  exact ⟨r, hr, sinkAppend_cases.imp And.right (Exists.imp fun _ => And.right)⟩

theorem closeFile_effect_cases (h : checkedEffect .closeFile s t) :
    s.wstate = .header ∧ (t = s.drawSink.withWState .closed ∨ t = s.drawSink.raise ⟨.ioError, 0⟩) := by
  obtain ⟨hw, rfl⟩ := h
  exact ⟨hw, sinkControl_cases.imp_left And.right⟩

end

/-! ## Results fit Y (10_state R26) -/

section
variable {src : Buffer} {s : State} {y : List Byte}

theorem ipv4Result_fits (h : ipv4Result src s = .ok y) : y.length ≤ Config.bufMax := by
  obtain ⟨b, sip, dip, proto, -, -, -, -, hb, rfl⟩ := ipv4Result_ok h
  rw [ipv4Packet_length]
  exact (by omega : 20 + b.length ≤ 65549).trans bufMax_ge

/-- A FRAME of the longest payload has 65549 bytes, the least `P_BUF_MAX` (R7, R204). -/
theorem frameResult_fits (h : frameResult src s = .ok y) : y.length ≤ Config.bufMax := by
  obtain ⟨b, sip, dip, sp, dp, seq, ack, fl, -, -, -, -, -, -, -, -, -, hb, rfl⟩ := frameResult_ok h
  rw [buildEthernet_length, ipv4Packet_length, buildTCP_length]
  exact (by omega : 14 + (20 + (20 + b.length)) ≤ 65549).trans bufMax_ge

end

/-! ## Capture files (43_capture_writer R220) -/

theorem isCapture_globalHeader : IsCapture globalHeader := ⟨[], nofun, by simp [captureFile]⟩

theorem captureFile_append (rs : List CaptureRecord) (r : CaptureRecord) :
    captureFile (rs ++ [r]) = captureFile rs ++ r.bytes := by
  simp [captureFile]

/-- The record of a passed WREC check is one a capture file can hold (R243, R244). -/
theorem wrecResult_record {src : Buffer} {s : State} {y : List Byte} (hs : Memory.wf s = true)
    (h : wrecResult src s = .ok y) : ∃ r : CaptureRecord, r.valid ∧ y = r.bytes := by
  obtain ⟨-, b, ts, hb, -, -, rfl⟩ := wrecResult_ok h
  have hus : (BitVec.ofNat 32 (microseconds ts)).toNat ≤ 999999 := by
    rw [BitVec.toNat_ofNat]
    exact (Nat.mod_le _ _).trans (microseconds_le ts)
  exact ⟨⟨_, _, b⟩, ⟨hus, (buffer_fits hs hb).trans_lt bufMax_lt⟩, rfl⟩

theorem IsCapture.append_record {b : List Byte} {r : CaptureRecord} (hb : IsCapture b) (hr : r.valid) :
    IsCapture (b ++ r.bytes) := by
  obtain ⟨rs, hrs, rfl⟩ := hb
  refine ⟨rs ++ [r], ?_, (captureFile_append rs r).symm⟩
  simpa [or_imp, forall_and] using ⟨hrs, hr⟩

/-! ## Which states have a good STREAM (43_capture_writer R220, R223) -/

section
variable {s : State}

theorem streamOk_of_ioError {rest : List Byte} (hf : s.fcode = some .ioError) (h : IsCapture (s.stream ++ rest)) :
    StreamOk s := by
  rw [StreamOk, if_pos hf]
  exact ⟨rest, h⟩

section
variable (hf : s.fcode ≠ some .ioError)
include hf

theorem streamOk_of_closed (hw : s.wstate = .closed) (h : s.stream = [] ∨ IsCapture s.stream) : StreamOk s := by
  rwa [StreamOk, if_neg hf, hw]

theorem streamOk_of_opened (hw : s.wstate = .opened) (h : s.stream = []) : StreamOk s := by
  rwa [StreamOk, if_neg hf, hw]

theorem streamOk_of_header (hw : s.wstate = .header) (h : IsCapture s.stream) : StreamOk s := by
  rwa [StreamOk, if_neg hf, hw]

theorem StreamOk.eq_nil_of_opened (h : StreamOk s) (hw : s.wstate = .opened) : s.stream = [] := by
  rwa [StreamOk, if_neg hf, hw] at h

theorem StreamOk.isCapture_of_header (h : StreamOk s) (hw : s.wstate = .header) : IsCapture s.stream := by
  rwa [StreamOk, if_neg hf, hw] at h

end

/-- A fault other than IO_ERROR says nothing of STREAM. -/
theorem StreamOk.raise {f : FaultInfo} (h : StreamOk s) (hs : s.fcode = none) (hf : f.code ≠ .ioError) :
    StreamOk (s.raise f) := by
  simpa [StreamOk, hs, hf] using h

end

/-! ## The invariant under each operation -/

section
variable {s t : State}

/-- An operation that leaves STATUS, FINFO and STREAM keeps the invariant if it keeps the buffers' and PROTO's part. -/
theorem State.Inv.of_status_stream (h : s.Inv) (hbuf : Memory.wf t = true) (hproto : t.regs.proto ≠ none)
    (hfcode : t.fcode = s.fcode) (hfinfo : t.finfo = s.finfo) (hwstate : t.wstate = s.wstate)
    (hstream : t.stream = s.stream) : t.Inv where
  buffers := hbuf
  protoWritten := hproto
  infoZero := by rw [hfcode, hfinfo]; exact h.infoZero
  streamGood := by simpa only [StreamOk, hfcode, hwstate, hstream] using h.streamGood

/-- An operation that leaves the registers and the buffers, and FINFO where it leaves no fault, keeps the invariant if
it leaves a good STREAM. -/
theorem State.Inv.of_streamOk (h : s.Inv) (hs : s.fcode = none) (hregs : t.regs = s.regs) (hA : t.bufA = s.bufA)
    (hY : t.bufY = s.bufY) (hfinfo : t.fcode = none → t.finfo = s.finfo) (hok : StreamOk t) : t.Inv where
  buffers := (memory_wf_congr hA hY).trans h.buffers
  protoWritten := hregs ▸ h.protoWritten
  infoZero hf := (hfinfo hf).trans (h.infoZero hs)
  streamGood := hok

theorem State.Inv.withInbox (h : s.Inv) (as : List HostAction) : (s.withInbox as).Inv :=
  h.of_status_stream h.buffers h.protoWritten rfl rfl rfl rfl

theorem State.Inv.withY {b : List Byte} (h : s.Inv) (hb : b.length ≤ Config.bufMax) : (s.withY b).Inv :=
  h.of_status_stream (withY_memory_wf h.buffers hb) h.protoWritten rfl rfl rfl rfl

theorem State.Inv.withCsumr (h : s.Inv) (v : BitVec 16) : (s.withCsumr v).Inv :=
  h.of_status_stream h.buffers h.protoWritten rfl rfl rfl rfl

theorem State.Inv.withA {b : List Byte} (h : s.Inv) (hb : b.length ≤ Config.bufMax) : (s.withA b).Inv :=
  h.of_status_stream (withA_memory_wf h.buffers hb) h.protoWritten rfl rfl rfl rfl

theorem State.Inv.withReg (h : s.Inv) (r : ArgReg) (v : Nat) : (s.withReg r v).Inv :=
  h.of_status_stream h.buffers (Regs.set_proto_ne_none _ r v h.protoWritten) rfl rfl rfl rfl

theorem State.Inv.withAnswer (h : s.Inv) (x : ReadAnswer) : (s.withAnswer x).Inv :=
  h.of_status_stream h.buffers h.protoWritten rfl rfl rfl rfl

theorem State.Inv.markRefused (h : s.Inv) : s.markRefused.Inv :=
  h.of_status_stream h.buffers h.protoWritten rfl rfl rfl rfl

theorem State.afterReset_inv (s : State) : s.afterReset.Inv where
  buffers := reset_memory_wf
  protoWritten := Option.some_ne_none _
  infoZero _ := rfl
  streamGood := streamOk_of_closed (Option.some_ne_none _).symm rfl (.inl rfl)

theorem State.Inv.raise {f : FaultInfo} (h : s.Inv) (hs : s.fcode = none) (hf : f.code ≠ .ioError) :
    (s.raise f).Inv :=
  h.of_streamOk hs rfl rfl rfl nofun (h.streamGood.raise hs hf)

end

/-! ## The invariant under each step -/

/-- Only the sink raises IO_ERROR: a command's own checks never do. -/
theorem checkFault_ne_ioError {i : Instr} {s : State} {f : FaultInfo} (h : checkFault i s f) : f.code ≠ .ioError := by
  intro hio
  cases i with
  | csum src => simpa [hio] using operand_fault h
  | eth src => simpa [hio] using ethResult_fault h
  | ipv4 src => simpa [hio] using ipv4Result_fault h
  | tcp src => simpa [hio] using tcpResult_fault h
  | frame src => simpa [hio] using frameResult_fault h
  | openFile => simpa [hio] using inState_fault h
  | ghdr => simpa [hio] using inState_fault h
  | wrec src => simpa [hio] using wrecResult_fault h
  | closeFile => simpa [hio] using inState_fault h

/-- What a capture command leaves in STREAM is good: nothing after OPEN, a file after GHDR, WREC and CLOSE, and after a
failure of the sink the bytes it took of one of these. -/
theorem checkedEffect_keeps_inv {i : Instr} {s t : State} (hs : s.Inv) (hf : s.fcode = none)
    (h : checkedEffect i s t) : t.Inv := by
  have hio : s.fcode ≠ some .ioError := by rw [hf]; nofun
  cases i with
  | csum src =>
    obtain ⟨b, -, rfl⟩ := h
    exact hs.withCsumr _
  | eth src =>
    obtain ⟨y, hy, rfl⟩ := h
    obtain ⟨-, -, -, -, -, -, -, hfits⟩ := ethResult_ok hy
    exact hs.withY hfits
  | ipv4 src =>
    obtain ⟨y, hy, rfl⟩ := h
    exact hs.withY (ipv4Result_fits hy)
  | tcp src =>
    obtain ⟨y, hy, rfl⟩ := h
    obtain ⟨-, -, -, -, -, -, -, -, -, -, -, -, -, hfits⟩ := tcpResult_ok hy
    exact hs.withY hfits
  | frame src =>
    obtain ⟨y, hy, rfl⟩ := h
    exact hs.withY (frameResult_fits hy)
  | openFile =>
    obtain ⟨-, rfl | rfl⟩ := openFile_effect_cases h
    · exact hs.of_streamOk hf rfl rfl rfl (fun _ => rfl) (streamOk_of_opened hio rfl rfl)
    · exact hs.of_streamOk hf rfl rfl rfl nofun (streamOk_of_ioError rfl isCapture_globalHeader)
  | ghdr =>
    obtain ⟨hw, hcases⟩ := ghdr_effect_cases h
    have hempty : s.stream = [] := hs.streamGood.eq_nil_of_opened hio hw
    rw [hempty, List.nil_append] at hcases
    obtain rfl | ⟨k, rfl⟩ := hcases
    · exact hs.of_streamOk hf rfl rfl rfl (fun _ => rfl) (streamOk_of_header hio rfl isCapture_globalHeader)
    · refine hs.of_streamOk hf rfl rfl rfl nofun (streamOk_of_ioError (rest := globalHeader.drop k) rfl ?_)
      exact (List.take_append_drop k globalHeader).symm ▸ isCapture_globalHeader
  | wrec src =>
    obtain ⟨y, hy, hcases⟩ := wrec_effect_cases h
    have hw : s.wstate = .header := (wrecResult_ok hy).1
    obtain ⟨r, hr, rfl⟩ := wrecResult_record hs.buffers hy
    have hfile : IsCapture (s.stream ++ r.bytes) :=
      (hs.streamGood.isCapture_of_header hio hw).append_record hr
    obtain rfl | ⟨k, rfl⟩ := hcases
    · exact hs.of_streamOk hf rfl rfl rfl (fun _ => rfl) (streamOk_of_header hio hw hfile)
    · refine hs.of_streamOk hf rfl rfl rfl nofun (streamOk_of_ioError (rest := r.bytes.drop k) rfl ?_)
      simpa using hfile
  | closeFile =>
    obtain ⟨hw, hcases⟩ := closeFile_effect_cases h
    have hfile : IsCapture s.stream := hs.streamGood.isCapture_of_header hio hw
    obtain rfl | rfl := hcases
    · exact hs.of_streamOk hf rfl rfl rfl (fun _ => rfl) (streamOk_of_closed hio rfl (.inr hfile))
    · exact hs.of_streamOk hf rfl rfl rfl nofun
        (streamOk_of_ioError (rest := []) rfl (by simpa using hfile))

theorem exec_keeps_inv {i : Instr} {s t : State} (hs : s.Inv) (h : exec i s = .next t) : t.Inv := by
  obtain ⟨-, rfl⟩ | ⟨hf, f, hfault, rfl⟩ | ⟨hf, heffect⟩ := exec_cases h
  · exact hs
  · exact hs.raise hf (checkFault_ne_ioError hfault)
  · exact checkedEffect_keeps_inv hs hf heffect

theorem illegalCommand_keeps_inv {s : State} (hs : s.Inv) (c : CommandWord) : (illegalCommand c s).Inv := by
  obtain h | ⟨hf, h⟩ := illegalCommand_eq c s <;> rw [h]
  · exact hs
  · exact hs.raise hf nofun

theorem hostEffect_keeps_inv {a : HostAction} {s : State} (hs : s.Inv) (ha : ∀ c, a ≠ .issue c) :
    (hostEffect a s).Inv := by
  obtain ⟨-, h⟩ | ⟨r, v, h⟩ | ⟨b, hb, h⟩ | ⟨x, h⟩ | h := hostEffect_cases (s := s) ha <;> rw [h]
  · exact s.afterReset_inv
  · exact hs.withReg r v
  · exact hs.withA hb
  · exact hs.withAnswer x
  · exact hs.markRefused

/-- Settles O29: the invariant is kept by whatever the step takes, a command, an illegal word or another host action. -/
theorem everyStepKeepsTheInvariant : Obligations.EveryStepKeepsTheInvariant := by
  intro s t hs h
  obtain ⟨-, rfl⟩ | ⟨c, rest, i, -, -, h⟩ | ⟨c, rest, e, -, -, rfl⟩ | ⟨a, rest, -, ha, rfl⟩ := step_cases h
  · exact hs
  · exact exec_keeps_inv (hs.withInbox rest) h
  · exact illegalCommand_keeps_inv (hs.withInbox rest) c
  · exact hostEffect_keeps_inv (hs.withInbox rest) ha

/-- Settles O28: the reset state is one that RESET leaves. -/
theorem invariantHoldsAtReset : Obligations.InvariantHoldsAtReset := State.reset.afterReset_inv

end Sys2Proof.Machine

/-! ## The host port's obligations (10_state R35, R40 to R42) -/

namespace Sys2Proof.Machine

/-- Settles O6: `step` takes the ISSUE from the inbox and hands its command to `exec`. -/
theorem stepRunsDecodedCommand : Obligations.StepRunsDecodedCommand := fun _ _ _ _ hs hc => step_issue hs hc

/-- Settles O8: an accepted SET is `withReg` of the register its index names, an accepted LOAD_A is `withA`. -/
theorem hostWritesRegistersAndA : Obligations.HostWritesRegistersAndA := by
  constructor
  · intro s i r v rest hs hr hv
    have hstep : step s = .next ((s.withInbox rest).withReg r v) := by
      rw [step_hostEffect hs nofun, hostEffect_set hr hv]
    refine ⟨_, hstep, ?_, fun q hq => Regs.get_set_of_ne _ hq v, rfl⟩
    rw [State.withReg_regs, Regs.get_set_self, Nat.mod_eq_of_lt hv]
  · intro s b rest hs hb
    rw [step_hostEffect hs nofun, hostEffect_loadA hb]
    rfl

@[simp] theorem numberAnswer_none : numberAnswer none = .unwritten := rfl

@[simp] theorem numberAnswer_some (v : Nat) : numberAnswer (some v) = .number v := rfl

theorem readAnswer_y_of_none {s : State} (h : s.bufY = none) : s.readAnswer .y = .unwritten := by
  simp only [State.readAnswer, h]

theorem readAnswer_y_of_some {s : State} {b : List Byte} (h : s.bufY = some b) : s.readAnswer .y = .bytes b := by
  simp only [State.readAnswer, h]

theorem readAnswer_csumr (s : State) : s.readAnswer .csumr = numberAnswer (s.csumr.map BitVec.toNat) := rfl

theorem readAnswer_reg (s : State) (r : ArgReg) : s.readAnswer (.reg r) = numberAnswer (s.regs.get r) := rfl

/-- Settles O9: READ adds `readAnswer`, which has one clause for each target. -/
theorem hostReadAnswersCurrentValue : Obligations.HostReadAnswersCurrentValue := by
  intro s x rest hs
  refine ⟨s.readAnswer x, ?_, ?_, ?_, ?_, ?_, ?_, ?_, ?_, ?_, ?_⟩
  · rw [step_hostEffect hs nofun, hostEffect_read]
    cases x <;> rfl
  · rintro rfl; rfl
  · rintro rfl; rfl
  · rintro rfl; rfl
  · rintro rfl h; exact readAnswer_y_of_none h
  · rintro b rfl h; exact readAnswer_y_of_some h
  · rintro rfl h; simp [readAnswer_csumr, h]
  · rintro v rfl h; simp [readAnswer_csumr, h]
  · rintro r rfl h; simp [readAnswer_reg, h]
  · rintro r v rfl h; simp [readAnswer_reg, h]

/-- Settles O11: RESET is `afterReset`, and its fields are those of the reset state. -/
theorem resetActionRestoresResetValues : Obligations.ResetActionRestoresResetValues := by
  intro s rest hs
  refine ⟨(s.withInbox rest).afterReset, ?_, rfl, rfl, rfl, rfl, rfl, rfl, rfl, rfl, rfl⟩
  rw [step_hostEffect hs nofun, hostEffect_reset]

/-- Settles O12: the reset state, row by row. -/
theorem resetStateHoldsTheTable : Obligations.ResetStateHoldsTheTable := by
  refine ⟨?_, rfl, rfl, rfl, rfl, rfl, rfl, rfl, rfl, rfl, rfl⟩
  intro r hr
  cases r with
  | proto => exact absurd rfl hr
  | _ => rfl

/-! ## STATUS and FINFO (10_state R28, R29) -/

theorem status_reserved (s : State) : s.status.extractLsb' 10 22 = 0 := by
  rw [State.status, BitVec.extractLsb'_append_eq_of_le (by norm_num)]
  exact BitVec.extractLsb'_append_eq_left

theorem status_wstate (s : State) : s.status.extractLsb' 8 2 = s.wstate.code := by
  rw [State.status, BitVec.extractLsb'_append_eq_of_le (by norm_num)]
  exact BitVec.extractLsb'_append_eq_right

theorem status_fcode (s : State) : s.status.extractLsb' 0 8 = s.fcodeBits := BitVec.extractLsb'_append_eq_right

theorem WState.code_ne_three (w : WState) : w.code ≠ 3 := by cases w <;> decide

theorem FaultCode.code_le (f : FaultCode) : f.code.toNat ≤ 8 := by cases f <;> decide

theorem FaultCode.code_ne_zero (f : FaultCode) : f.code ≠ 0 := by cases f <;> decide

theorem fcodeBits_of_none {s : State} (h : s.fcode = none) : s.fcodeBits = 0 := by
  simp only [State.fcodeBits, h]

theorem fcodeBits_of_some {s : State} {f : FaultCode} (h : s.fcode = some f) : s.fcodeBits = f.code := by
  simp only [State.fcodeBits, h]

theorem fcodeBits_le (s : State) : s.fcodeBits.toNat ≤ 8 := by
  cases h : s.fcode with
  | none => rw [fcodeBits_of_none h]; decide
  | some f => rw [fcodeBits_of_some h]; exact f.code_le

theorem fcodeBits_eq_zero_iff (s : State) : s.fcodeBits = 0 ↔ s.fcode = none := by
  cases h : s.fcode with
  | none => simp [fcodeBits_of_none h]
  | some f => simpa [fcodeBits_of_some h] using f.code_ne_zero

/-- Settles O13: STATUS is the concatenation of its three fields, and each fault reads by its code. -/
theorem statusFieldsReadAsNumbered : Obligations.StatusFieldsReadAsNumbered := fun s =>
  ⟨status_reserved s, status_wstate s, s.wstate.code_ne_three,
    fun h => h ▸ rfl, fun h => h ▸ rfl, fun h => h ▸ rfl,
    status_fcode s, fcodeBits_le s, fcodeBits_eq_zero_iff s,
    fcodeBits_of_some, fcodeBits_of_some, fcodeBits_of_some, fcodeBits_of_some,
    fcodeBits_of_some, fcodeBits_of_some, fcodeBits_of_some, fcodeBits_of_some⟩

/-- Settles O18. -/
theorem infoWordHoldsTheNumber : Obligations.InfoWordHoldsTheNumber := by
  intro n hn
  rw [infoWord_of_lt hn, BitVec.toNat_ofNat, Nat.mod_eq_of_lt hn]

end Sys2Proof.Machine

/-! ## What a command leaves unchanged (10_state R23, R26, R27, R31, R32)

A command whose checks pass writes Y, or writes CSUMR, or is a capture command, which works on STREAM, WSTATE and the
sink; any other run changes at most FCODE and FINFO. The frames and the rules on who writes what follow from these
cases. -/

namespace Sys2Proof.Machine

section
variable {i : Instr} {s t : State}

theorem checkedEffect_cases (h : checkedEffect i s t) :
    (Claims.writesY i = true ∧ ∃ y, t = s.withY y) ∨
    (Claims.writesCsumr i = true ∧ ∃ v, t = s.withCsumr v) ∨
    (Claims.neededState i ≠ none ∧
      t = { s with stream := t.stream, wstate := t.wstate, fcode := t.fcode, finfo := t.finfo,
                   sinkScript := t.sinkScript, draws := t.draws }) := by
  cases i with
  | csum src =>
    obtain ⟨b, -, rfl⟩ := h
    exact .inr (.inl ⟨rfl, _, rfl⟩)
  | eth src =>
    obtain ⟨y, -, rfl⟩ := h
    exact .inl ⟨rfl, y, rfl⟩
  | ipv4 src =>
    obtain ⟨y, -, rfl⟩ := h
    exact .inl ⟨rfl, y, rfl⟩
  | tcp src =>
    obtain ⟨y, -, rfl⟩ := h
    exact .inl ⟨rfl, y, rfl⟩
  | frame src =>
    obtain ⟨y, -, rfl⟩ := h
    exact .inl ⟨rfl, y, rfl⟩
  | openFile =>
    obtain ⟨-, rfl | rfl⟩ := openFile_effect_cases h <;> exact .inr (.inr ⟨nofun, rfl⟩)
  | ghdr =>
    obtain ⟨-, rfl | ⟨k, rfl⟩⟩ := ghdr_effect_cases h <;> exact .inr (.inr ⟨nofun, rfl⟩)
  | wrec src =>
    obtain ⟨r, -, rfl | ⟨k, rfl⟩⟩ := wrec_effect_cases h <;> exact .inr (.inr ⟨nofun, rfl⟩)
  | closeFile =>
    obtain ⟨-, rfl | rfl⟩ := closeFile_effect_cases h <;> exact .inr (.inr ⟨nofun, rfl⟩)

theorem neededState_of_writesY (h : Claims.writesY i = true) : Claims.neededState i = none := by
  cases i with
  | eth _ | ipv4 _ | tcp _ | frame _ => rfl
  | _ => cases h

theorem neededState_of_writesCsumr (h : Claims.writesCsumr i = true) : Claims.neededState i = none := by
  cases i with
  | csum _ => rfl
  | _ => cases h

theorem writesY_of_mem_builders {src : Buffer} (h : i ∈ [Instr.eth src, .ipv4 src, .tcp src, .frame src]) :
    Claims.writesY i = true := by
  simp only [List.mem_cons, List.not_mem_nil, or_false] at h
  rcases h with rfl | rfl | rfl | rfl <;> rfl

theorem writesCsumr_of_writesY (h : Claims.writesY i = true) : Claims.writesCsumr i = false := by
  cases i with
  | eth _ | ipv4 _ | tcp _ | frame _ => rfl
  | _ => cases h

/-- What a run of a command can write. -/
theorem exec_write_cases (h : exec i s = .next t) :
    (∃ code info, t = { s with fcode := code, finfo := info }) ∨
    (Claims.writesY i = true ∧ s.fcode = none ∧ ∃ y, t = s.withY y) ∨
    (Claims.writesCsumr i = true ∧ s.fcode = none ∧ ∃ v, t = s.withCsumr v) ∨
    (Claims.neededState i ≠ none ∧
      t = { s with stream := t.stream, wstate := t.wstate, fcode := t.fcode, finfo := t.finfo,
                   sinkScript := t.sinkScript, draws := t.draws }) := by
  obtain ⟨-, rfl⟩ | ⟨-, f, -, rfl⟩ | ⟨hs, heffect⟩ := exec_cases h
  · exact .inl ⟨_, _, rfl⟩
  · exact .inl ⟨_, _, rfl⟩
  · obtain ⟨hi, ht⟩ | ⟨hi, ht⟩ | hcapture := checkedEffect_cases heffect
    · exact .inr (.inl ⟨hi, hs, ht⟩)
    · exact .inr (.inr (.inl ⟨hi, hs, ht⟩))
    · exact .inr (.inr (.inr hcapture))

/-- Whatever a command does, it may write Y, CSUMR, STATUS, FINFO, STREAM and draw from the sink, and nothing else. -/
theorem exec_frame (h : exec i s = .next t) :
    t = { s with bufY := t.bufY, csumr := t.csumr, stream := t.stream, wstate := t.wstate, fcode := t.fcode,
                 finfo := t.finfo, sinkScript := t.sinkScript, draws := t.draws } := by
  obtain ⟨_, _, rfl⟩ | ⟨-, -, y, rfl⟩ | ⟨-, -, v, rfl⟩ | ⟨-, hframe⟩ := exec_write_cases h
  · rfl
  · rfl
  · rfl
  · rw [hframe]

theorem exec_regs (h : exec i s = .next t) : t.regs = s.regs := by rw [exec_frame h]

theorem exec_bufA (h : exec i s = .next t) : t.bufA = s.bufA := by rw [exec_frame h]

theorem exec_everRefused (h : exec i s = .next t) : t.everRefused = s.everRefused := by rw [exec_frame h]

theorem exec_frame_of_writesCsumr (hi : Claims.writesCsumr i = true) (h : exec i s = .next t) :
    t = { s with csumr := t.csumr, fcode := t.fcode, finfo := t.finfo } := by
  obtain ⟨_, _, rfl⟩ | ⟨hY, -⟩ | ⟨-, -, v, rfl⟩ | ⟨hneeds, -⟩ := exec_write_cases h
  · rfl
  · exact absurd hi (by simp [writesCsumr_of_writesY hY])
  · rfl
  · exact absurd (neededState_of_writesCsumr hi) hneeds

theorem exec_frame_of_writesY (hi : Claims.writesY i = true) (h : exec i s = .next t) :
    t = { s with bufY := t.bufY, fcode := t.fcode, finfo := t.finfo } := by
  obtain ⟨_, _, rfl⟩ | ⟨-, -, y, rfl⟩ | ⟨hcsumr, -⟩ | ⟨hneeds, -⟩ := exec_write_cases h
  · rfl
  · rfl
  · exact absurd hcsumr (by simp [writesCsumr_of_writesY hi])
  · exact absurd (neededState_of_writesY hi) hneeds

theorem exec_frame_of_neededState (hi : Claims.neededState i ≠ none) (h : exec i s = .next t) :
    t = { s with stream := t.stream, wstate := t.wstate, fcode := t.fcode, finfo := t.finfo,
                 sinkScript := t.sinkScript, draws := t.draws } := by
  obtain ⟨_, _, rfl⟩ | ⟨hY, -⟩ | ⟨hcsumr, -⟩ | ⟨-, hframe⟩ := exec_write_cases h
  · rfl
  · exact absurd (neededState_of_writesY hY) hi
  · exact absurd (neededState_of_writesCsumr hcsumr) hi
  · exact hframe

/-- A command other than the four of the capture writer leaves STREAM and WSTATE. -/
theorem exec_wstate_stream_of_neededState_eq_none (hi : Claims.neededState i = none) (h : exec i s = .next t) :
    t.wstate = s.wstate ∧ t.stream = s.stream := by
  obtain ⟨_, _, rfl⟩ | ⟨-, -, y, rfl⟩ | ⟨-, -, v, rfl⟩ | ⟨hneeds, -⟩ := exec_write_cases h
  · exact ⟨rfl, rfl⟩
  · exact ⟨rfl, rfl⟩
  · exact ⟨rfl, rfl⟩
  · exact absurd hi hneeds

theorem exec_bufY (h : exec i s = .next t) (hY : t.bufY ≠ s.bufY) :
    Claims.writesY i = true ∧ s.fcode = none ∧ t.fcode = none := by
  obtain ⟨_, _, rfl⟩ | ⟨hi, hs, y, rfl⟩ | ⟨-, -, v, rfl⟩ | ⟨-, hframe⟩ := exec_write_cases h
  · exact absurd rfl hY
  · exact ⟨hi, hs, hs⟩
  · exact absurd rfl hY
  · exact absurd (by rw [hframe]) hY

theorem exec_csumr (h : exec i s = .next t) (hcsumr : t.csumr ≠ s.csumr) :
    Claims.writesCsumr i = true ∧ s.fcode = none ∧ t.fcode = none := by
  obtain ⟨_, _, rfl⟩ | ⟨-, -, y, rfl⟩ | ⟨hi, hs, v, rfl⟩ | ⟨-, hframe⟩ := exec_write_cases h
  · exact absurd rfl hcsumr
  · exact absurd rfl hcsumr
  · exact ⟨hi, hs, hs⟩
  · exact absurd (by rw [hframe]) hcsumr

end

/-- Settles O22: CSUM writes CSUMR and the other four write Y. -/
theorem builderCommandsFrame : Obligations.BuilderCommandsFrame := by
  intro src s t
  exact ⟨exec_frame_of_writesCsumr rfl, fun i hi => exec_frame_of_writesY (writesY_of_mem_builders hi)⟩

/-! ## What the capture commands leave in STREAM -/

section
variable {i : Instr} {s t : State}

theorem offered_wrec {src : Buffer} {r : List Byte} (h : wrecResult src s = .ok r) :
    Claims.offered (.wrec src) s = r := by
  simp only [Claims.offered, h]

/-- But for OPEN, a command leaves STREAM followed by some of the bytes it offers. -/
theorem exec_stream_eq_append (hi : i ≠ .openFile) (h : exec i s = .next t) :
    ∃ k, t.stream = s.stream ++ (Claims.offered i s).take k := by
  have unchanged (hstream : t.stream = s.stream) : ∃ k, t.stream = s.stream ++ (Claims.offered i s).take k :=
    ⟨0, by rw [hstream, List.take_zero, List.append_nil]⟩
  obtain ⟨-, rfl⟩ | ⟨-, f, -, rfl⟩ | ⟨-, heffect⟩ := exec_cases h
  · exact unchanged rfl
  · exact unchanged rfl
  · cases i with
    | openFile => exact absurd rfl hi
    | ghdr =>
      obtain ⟨-, rfl | ⟨k, rfl⟩⟩ := ghdr_effect_cases heffect
      · exact ⟨_, congrArg (s.stream ++ ·) List.take_length.symm⟩
      · exact ⟨k, rfl⟩
    | wrec src =>
      obtain ⟨r, hr, rfl | ⟨k, rfl⟩⟩ := wrec_effect_cases heffect <;> rw [offered_wrec hr]
      · exact ⟨_, congrArg (s.stream ++ ·) List.take_length.symm⟩
      · exact ⟨k, rfl⟩
    | closeFile =>
      obtain ⟨-, rfl | rfl⟩ := closeFile_effect_cases heffect <;> exact unchanged rfl
    | _ => exact unchanged (exec_wstate_stream_of_neededState_eq_none rfl h).2

theorem exec_openFile_stream (h : exec .openFile s = .next t) :
    t.stream = s.stream ∨ (s.wstate = .closed ∧ s.fcode = none ∧ t.stream = []) := by
  obtain ⟨-, rfl⟩ | ⟨-, f, -, rfl⟩ | ⟨hf, heffect⟩ := exec_cases h
  · exact .inl rfl
  · exact .inl rfl
  · obtain ⟨hw, rfl | rfl⟩ := openFile_effect_cases heffect <;> exact .inr ⟨hw, hf, rfl⟩

theorem exec_stream_prefix (hi : ¬ (i = .openFile ∧ s.wstate = .closed ∧ s.fcode = none))
    (h : exec i s = .next t) : s.stream <+: t.stream := by
  by_cases hopen : i = .openFile
  · subst hopen
    obtain heq | ⟨hw, hf, -⟩ := exec_openFile_stream h
    · exact heq ▸ List.prefix_rfl
    · exact absurd ⟨rfl, hw, hf⟩ hi
  · obtain ⟨k, hk⟩ := exec_stream_eq_append hopen h
    exact hk ▸ List.prefix_append _ _

/-! ## Which command moves the writer state (43_capture_writer R220) -/

/-- The moves of R220's table. -/
theorem exec_wstate (h : exec i s = .next t) (hw : t.wstate ≠ s.wstate) :
    s.fcode = none ∧ t.fcode = none ∧
      ((i = .openFile ∧ s.wstate = .closed ∧ t.wstate = .opened) ∨
       (i = .ghdr ∧ s.wstate = .opened ∧ t.wstate = .header) ∨
       (i = .closeFile ∧ s.wstate = .header ∧ t.wstate = .closed)) := by
  obtain ⟨-, rfl⟩ | ⟨-, f, -, rfl⟩ | ⟨hf, heffect⟩ := exec_cases h
  · exact absurd rfl hw
  · exact absurd rfl hw
  · cases i with
    | openFile =>
      obtain ⟨hs, rfl | rfl⟩ := openFile_effect_cases heffect
      · exact ⟨hf, hf, .inl ⟨rfl, hs, rfl⟩⟩
      · exact absurd rfl hw
    | ghdr =>
      obtain ⟨hs, rfl | ⟨k, rfl⟩⟩ := ghdr_effect_cases heffect
      · exact ⟨hf, hf, .inr (.inl ⟨rfl, hs, rfl⟩)⟩
      · exact absurd rfl hw
    | wrec src =>
      obtain ⟨r, -, rfl | ⟨k, rfl⟩⟩ := wrec_effect_cases heffect <;> exact absurd rfl hw
    | closeFile =>
      obtain ⟨hs, rfl | rfl⟩ := closeFile_effect_cases heffect
      · exact ⟨hf, hf, .inr (.inr ⟨rfl, hs, rfl⟩)⟩
      · exact absurd rfl hw
    | _ => exact absurd (exec_wstate_stream_of_neededState_eq_none rfl h).1 hw

end

/-- Settles O23: the frame of the capture commands, and each one's effect on STREAM. -/
theorem writerCommandsFrame : Obligations.WriterCommandsFrame := by
  intro src s t i hi h
  have hneeds : Claims.neededState i ≠ none := by
    simp only [List.mem_cons, List.not_mem_nil, or_false] at hi
    rcases hi with rfl | rfl | rfl | rfl <;> nofun
  refine ⟨exec_frame_of_neededState hneeds h, ?_, ?_, ?_, fun hne => exec_stream_eq_append hne h⟩
  · rintro rfl
    by_contra hw
    simpa using (exec_wstate h hw).2.2
  · rintro rfl
    obtain ⟨k, hk⟩ := exec_stream_eq_append (by simp) h
    simpa [Claims.offered] using hk
  · rintro rfl
    exact (exec_openFile_stream h).imp_right fun ⟨_, _, hempty⟩ => hempty

end Sys2Proof.Machine

/-! ## The words of the commands without an operand (30_encoding R95) -/

namespace Sys2Proof.Machine

/-- A decoded word is matched by the row of its command. -/
theorem exists_row_of_decode_ok {c : CommandWord} {i : Instr} (h : decode c = .ok i) :
    ∃ r ∈ opcodeTable, c &&& r.mask = r.pattern ∧ i = r.instr (bufferOf (ysrcField c)) := by
  unfold decode at h
  cases hr : opcodeTable.find? (fun r => r.selectedBy c) with
  | none => simp [hr] at h
  | some r =>
    have hsel : c &&& r.mask = r.pattern := by simpa [OpcodeRow.selectedBy] using List.find?_some hr
    simp only [hr, Except.ok.injEq] at h
    exact ⟨r, List.mem_of_find?_eq_some hr, hsel, h.symm⟩

/-- The rows of OPEN, GHDR and CLOSE compare the whole word, so each of these commands has one word. -/
theorem eq_encode_of_decode_plain {c : CommandWord} {i : Instr} (h : decode c = .ok i)
    (hi : Claims.bufferRead i = none) : c = encode i := by
  obtain ⟨r, hr, hsel, rfl⟩ := exists_row_of_decode_ok h
  have whole : c &&& 0xFFFFFFFF = c := BitVec.and_allOnes
  simp only [opcodeTable, List.mem_cons, List.not_mem_nil, or_false] at hr
  rcases hr with rfl | rfl | rfl | rfl | rfl | rfl | rfl | rfl | rfl <;> cases hi
  all_goals exact whole.symm.trans hsel

/-! ## What a step changes (10_state R26, R27, R31, R32, R41) -/

/-- Settles O10: the first three forms and `outside` are not accepted, and no operation clears the kept mark. -/
theorem refusedActionsOnlySetTheMark : Obligations.RefusedActionsOnlySetTheMark := by
  refine ⟨?_, ?_⟩
  · intro s a rest hs hrefused
    have ha : a.accepted = false := by
      obtain ⟨i, v, rfl, hi⟩ | ⟨i, v, r, rfl, hr, hv⟩ | ⟨b, rfl, hb⟩ | rfl := hrefused
      · exact not_accepted_set_of_reserved hi
      · exact not_accepted_set_of_wide hr hv
      · exact not_accepted_loadA_iff.2 hb
      · rfl
    have hissue : ∀ c, a ≠ .issue c := by
      rintro c rfl
      cases ha
    rw [step_hostEffect hs hissue, hostEffect_refused ha]
    rfl
  · intro s t hs h
    obtain ⟨-, rfl⟩ | ⟨c, rest, i, -, -, h⟩ | ⟨c, rest, e, -, -, rfl⟩ | ⟨a, rest, -, -, rfl⟩ := step_cases h
    · exact hs
    · exact (exec_everRefused h).trans hs
    · obtain h | ⟨-, h⟩ := illegalCommand_eq c (s.withInbox rest) <;> rw [h] <;> exact hs
    · exact hostEffect_everRefused a _ hs

/-- What only commands and RESET write (R26, R27, R31, R32) changes in a step only by one of these. -/
theorem step_write_cases {s t : State} (h : step s = .next t) :
    s.inbox.head? = some .reset ∧ t.bufY = none ∧ t.csumr = none ∧ t.wstate = .closed ∨
    (∃ c rest i, s.inbox.head? = some (.issue c) ∧ decode c = .ok i ∧ exec i (s.withInbox rest) = .next t) ∨
    (t.bufY = s.bufY ∧ t.csumr = s.csumr ∧ t.wstate = s.wstate ∧ t.stream = s.stream) := by
  obtain ⟨-, rfl⟩ | ⟨c, rest, i, hs, hc, h⟩ | ⟨c, rest, e, -, -, rfl⟩ | ⟨a, rest, hs, -, rfl⟩ := step_cases h
  · exact .inr (.inr ⟨rfl, rfl, rfl, rfl⟩)
  · exact .inr (.inl ⟨c, rest, i, by rw [hs, List.head?_cons], hc, h⟩)
  · obtain h | ⟨-, h⟩ := illegalCommand_eq c (s.withInbox rest) <;> rw [h] <;>
      exact .inr (.inr ⟨rfl, rfl, rfl, rfl⟩)
  · by_cases ha : a = .reset
    · subst ha
      exact .inl ⟨by rw [hs, List.head?_cons], rfl, rfl, rfl⟩
    · obtain ⟨hY, hcsumr, -, hw, -, hstream⟩ := hostEffect_keeps (s.withInbox rest) ha
      exact .inr (.inr ⟨hY, hcsumr, hw, hstream⟩)

/-- Settles O25: of the steps only RESET and a command write Y and CSUMR, and of the commands only those that say so. -/
theorem onlyTheirCommandsWriteYAndCsumr : Obligations.OnlyTheirCommandsWriteYAndCsumr := by
  intro s t h
  obtain ⟨hreset, -⟩ | ⟨c, rest, i, hs, hc, h⟩ | ⟨hY, hcsumr, -⟩ := step_write_cases h
  · exact ⟨fun _ => .inl hreset, fun _ => .inl hreset⟩
  · exact ⟨fun hne => .inr ⟨c, i, hs, hc, exec_bufY (s := s.withInbox rest) h hne⟩,
      fun hne => .inr ⟨c, i, hs, hc, exec_csumr (s := s.withInbox rest) h hne⟩⟩
  · exact ⟨fun hne => absurd hY hne, fun hne => absurd hcsumr hne⟩

/-- Settles O26: RESET closes the writer, and a command moves it as R220 says. -/
theorem writerStateMovesOnlyAsTabled : Obligations.WriterStateMovesOnlyAsTabled := by
  intro s t h hw
  obtain ⟨hreset, -, -, hclosed⟩ | ⟨c, rest, i, hs, hc, h⟩ | ⟨-, -, hkeep, -⟩ := step_write_cases h
  · exact .inl ⟨hreset, hclosed⟩
  · obtain ⟨hf, hf', hmove⟩ := exec_wstate h hw
    refine .inr ⟨hf, hf', ?_⟩
    rw [hs]
    obtain ⟨rfl, hfrom, hto⟩ | ⟨rfl, hfrom, hto⟩ | ⟨rfl, hfrom, hto⟩ := hmove <;>
      obtain rfl := eq_encode_of_decode_plain hc rfl
    · exact .inl ⟨rfl, hfrom, hto⟩
    · exact .inr (.inl ⟨rfl, hfrom, hto⟩)
    · exact .inr (.inr ⟨rfl, hfrom, hto⟩)
  · exact absurd hkeep hw

/-- Settles O27: of the commands only an OPEN that runs in CLOSED removes bytes, and its word is 0x00000010. -/
theorem streamIsAppendOnly : Obligations.StreamIsAppendOnly := by
  intro s t h hreset hopen
  obtain ⟨hs, -⟩ | ⟨c, rest, i, hs, hc, h⟩ | ⟨-, -, -, hkeep⟩ := step_write_cases h
  · exact absurd hs hreset
  · refine exec_stream_prefix (s := s.withInbox rest) ?_ h
    rintro ⟨rfl, hw, hf⟩
    obtain rfl := eq_encode_of_decode_plain hc rfl
    exact hopen ⟨hs, hw, hf⟩
  · exact hkeep ▸ List.prefix_rfl

end Sys2Proof.Machine

/-! ## The builders depend on the registers and the operand alone (20_memory R67) -/

namespace Sys2Proof.Machine

/-- Two runs of one command without a fault whose checks agree: both take the fault found, or both have the effect. -/
theorem runCommand_agree {α : Type} {check : State → Checked α} {effect : α → State → State} {s s' : State}
    (hf : s.fcode = none) (hf' : s'.fcode = none) (hcheck : check s' = check s) :
    (∃ f, runCommand check effect s = s.raise f ∧ runCommand check effect s' = s'.raise f) ∨
    (∃ v, runCommand check effect s = effect v s ∧ runCommand check effect s' = effect v s') := by
  cases hc : check s with
  | error f => exact .inl ⟨f, runCommand_error hf hc, runCommand_error hf' (hcheck.trans hc)⟩
  | ok v => exact .inr ⟨v, runCommand_ok hf hc, runCommand_ok hf' (hcheck.trans hc)⟩

section
variable {src : Buffer} {s s' t t' : State} (hregs : s.regs = s'.regs) (hbuf : s.buffer src = s'.buffer src)
include hbuf

theorem operand_congr : operand src s' = operand src s := by rw [operand, operand, hbuf]

include hregs

theorem ethResult_congr : ethResult src s' = ethResult src s := by
  rw [ethResult, ethResult, operand_congr hbuf, hregs]

theorem ipv4Result_congr : ipv4Result src s' = ipv4Result src s := by
  rw [ipv4Result, ipv4Result, operand_congr hbuf, hregs]

theorem tcpResult_congr : tcpResult src s' = tcpResult src s := by
  rw [tcpResult, tcpResult, operand_congr hbuf, hregs]

theorem frameResult_congr : frameResult src s' = frameResult src s := by
  rw [frameResult, frameResult, operand_congr hbuf, hregs]

variable (hf : s.fcode = none) (hf' : s'.fcode = none)
include hf hf'

/-- A builder run in two states that agree takes the same fault in both or writes the same Y in both. -/
theorem exec_builder_agree {i : Instr} (hi : i ∈ [Instr.eth src, .ipv4 src, .tcp src, .frame src])
    (h : exec i s = .next t) (h' : exec i s' = .next t') :
    (∃ f, t = s.raise f ∧ t' = s'.raise f) ∨ (∃ y, t = s.withY y ∧ t' = s'.withY y) := by
  simp only [List.mem_cons, List.not_mem_nil, or_false] at hi
  obtain rfl | rfl | rfl | rfl := hi <;> injection h with h <;> injection h' with h' <;> subst h h'
  · exact runCommand_agree hf hf' (ethResult_congr hregs hbuf)
  · exact runCommand_agree hf hf' (ipv4Result_congr hregs hbuf)
  · exact runCommand_agree hf hf' (tcpResult_congr hregs hbuf)
  · exact runCommand_agree hf hf' (frameResult_congr hregs hbuf)

omit hregs in
/-- The same of CSUM and CSUMR. -/
theorem exec_csum_agree (h : exec (.csum src) s = .next t) (h' : exec (.csum src) s' = .next t') :
    (∃ f, t = s.raise f ∧ t' = s'.raise f) ∨ (∃ b, t = s.withCsumr (checksum b) ∧ t' = s'.withCsumr (checksum b)) := by
  injection h with h
  injection h' with h'
  subst h h'
  exact runCommand_agree hf hf' (operand_congr hbuf)

end

/-- Settles O24: in both states the command takes one fault or writes one result. -/
theorem buildersAreIdempotent : Obligations.BuildersAreIdempotent := by
  intro src s s' t t' hregs hbuf hf hf' i hi h h'
  obtain rfl | hi := List.mem_cons.1 hi
  · obtain ⟨f, rfl, rfl⟩ | ⟨b, rfl, rfl⟩ := exec_csum_agree hbuf hf hf' h h'
    · simp
    · simp [hf, hf', Claims.writesY]
  · obtain ⟨f, rfl, rfl⟩ | ⟨y, rfl, rfl⟩ := exec_builder_agree hregs hbuf hf hf' hi h h'
    · simp
    · simp [hf, hf', writesCsumr_of_writesY (writesY_of_mem_builders hi)]

/-- Settles O21: `exec_frame` for the arguments, and for the builders their agreement. -/
theorem commandsNeverWriteTheirArguments : Obligations.CommandsNeverWriteTheirArguments := by
  refine ⟨fun i s t h => ⟨exec_regs h, exec_bufA h⟩, ?_⟩
  intro src s s' t t' hregs hbuf hf hf' i hi h h' hok
  have hi : i ∈ [Instr.eth src, .ipv4 src, .tcp src, .frame src] := by
    simp only [List.mem_cons, List.not_mem_nil, or_false] at hi ⊢
    tauto
  obtain ⟨f, rfl, rfl⟩ | ⟨y, rfl, rfl⟩ := exec_builder_agree hregs hbuf hf hf' hi h h'
  · cases hok
  · rfl

end Sys2Proof.Machine

/-! ## The first unwritten operand (10_state R24)

A command reads its operands by a chain of `needs`, in the order of R24. Each link stops at its own operand if that is
unwritten, and otherwise the first unwritten one is among those of the rest of the chain. -/

namespace Sys2Proof.Machine

/-- The ids of the registers of a list that hold `⊥`, as `Claims.unwrittenIds` names them. -/
def unwrittenRegs (g : Regs) (rs : List ArgReg) : List Nat :=
  (rs.filter (fun r => (g.get r).isNone)).map ArgReg.index

/-- The id of a buffer, if it holds `⊥`. -/
def unwrittenBuffer (src : Buffer) (s : State) : List Nat := if s.buffer src = none then [bufferId src] else []

theorem unwrittenIds_of_bufferRead {i : Instr} {src : Buffer} {s : State} (h : Claims.bufferRead i = some src) :
    Claims.unwrittenIds i s = unwrittenBuffer src s ++ unwrittenRegs s.regs (Claims.regsRead i) := by
  cases src <;> simp only [Claims.unwrittenIds, h] <;> rfl

theorem unwrittenRegs_cons (g : Regs) (r : ArgReg) (rs : List ArgReg) :
    unwrittenRegs g (r :: rs) = (if g.get r = none then [r.index] else []) ++ unwrittenRegs g rs := by
  cases h : g.get r <;> simp [unwrittenRegs, h]

section
variable {α β : Type} {id n : Nat}

/-- One link of the chain. -/
theorem needs_bind_unwritten {x : Option α} {k : α → Checked β} {ids : List Nat}
    (h : ((if x = none then [id] else []) ++ ids).head? = some n)
    (hk : ids.head? = some n → ∀ v, k v = .error ⟨.unwrittenOperand, n⟩) :
    (needs id x >>= k) = .error ⟨.unwrittenOperand, n⟩ := by
  cases x with
  | none =>
    obtain rfl : id = n := by simpa using h
    rfl
  | some v => exact hk (by simpa using h) v

end

/-- A link that reads a register. -/
theorem needs_reg_bind_unwritten {w n : Nat} {x : Option (BitVec w)} {β : Type} {k : BitVec w → Checked β} {g : Regs}
    {r : ArgReg} {rs : List ArgReg} (h : (unwrittenRegs g (r :: rs)).head? = some n)
    (hx : g.get r = x.map BitVec.toNat)
    (hk : (unwrittenRegs g rs).head? = some n → ∀ v, k v = .error ⟨.unwrittenOperand, n⟩) :
    (needs r.index x >>= k) = .error ⟨.unwrittenOperand, n⟩ := by
  rw [unwrittenRegs_cons, hx] at h
  exact needs_bind_unwritten (by simpa using h) hk

section
variable {src : Buffer} {s : State} {n : Nat}

theorem operand_bind_unwritten {β : Type} {k : List Byte → Checked β} {ids : List Nat}
    (h : (unwrittenBuffer src s ++ ids).head? = some n)
    (hk : ids.head? = some n → ∀ v, k v = .error ⟨.unwrittenOperand, n⟩) :
    (operand src s >>= k) = .error ⟨.unwrittenOperand, n⟩ := needs_bind_unwritten h hk

theorem operand_unwritten (h : (Claims.unwrittenIds (.csum src) s).head? = some n) :
    operand src s = .error ⟨.unwrittenOperand, n⟩ := by
  rw [unwrittenIds_of_bufferRead rfl] at h
  rw [← bind_pure (operand src s)]
  exact operand_bind_unwritten h nofun

theorem ethResult_unwritten (h : (Claims.unwrittenIds (.eth src) s).head? = some n) :
    ethResult src s = .error ⟨.unwrittenOperand, n⟩ := by
  rw [unwrittenIds_of_bufferRead rfl] at h
  refine operand_bind_unwritten h fun h _ => ?_
  iterate 2 refine needs_reg_bind_unwritten h rfl fun h _ => ?_
  cases h

theorem ipv4Result_unwritten (h : (Claims.unwrittenIds (.ipv4 src) s).head? = some n) :
    ipv4Result src s = .error ⟨.unwrittenOperand, n⟩ := by
  rw [unwrittenIds_of_bufferRead rfl] at h
  refine operand_bind_unwritten h fun h _ => ?_
  iterate 3 refine needs_reg_bind_unwritten h rfl fun h _ => ?_
  cases h

theorem tcpResult_unwritten (h : (Claims.unwrittenIds (.tcp src) s).head? = some n) :
    tcpResult src s = .error ⟨.unwrittenOperand, n⟩ := by
  rw [unwrittenIds_of_bufferRead rfl] at h
  refine operand_bind_unwritten h fun h _ => ?_
  iterate 5 refine needs_reg_bind_unwritten h rfl fun h _ => ?_
  cases h

theorem frameResult_unwritten (h : (Claims.unwrittenIds (.frame src) s).head? = some n) :
    frameResult src s = .error ⟨.unwrittenOperand, n⟩ := by
  rw [unwrittenIds_of_bufferRead rfl] at h
  refine operand_bind_unwritten h fun h _ => ?_
  iterate 7 refine needs_reg_bind_unwritten h rfl fun h _ => ?_
  cases h

/-- The check of WREC's writer state comes first (60_exceptions R280). -/
theorem wrecResult_unwritten (hw : s.wstate = .header)
    (h : (Claims.unwrittenIds (.wrec src) s).head? = some n) :
    wrecResult src s = .error ⟨.unwrittenOperand, n⟩ := by
  rw [unwrittenIds_of_bufferRead rfl] at h
  rw [wrecResult, inState_ok hw, Checked.bind_ok]
  refine operand_bind_unwritten h fun h _ => ?_
  refine needs_reg_bind_unwritten h rfl fun h _ => ?_
  cases h

end

/-! ## The fault a command takes -/

section
variable {i : Instr} {s : State}

theorem exec_of_checkFault {f : FaultInfo} (hs : s.fcode = none) (h : checkFault i s f) :
    exec i s = .next (s.raise f) := by
  cases i <;> exact congrArg Host.Outcome.next (runCommand_error hs h)

theorem checkFault_unwritten {n : Nat} (hw : ∀ w, Claims.neededState i = some w → s.wstate = w)
    (h : (Claims.unwrittenIds i s).head? = some n) : checkFault i s ⟨.unwrittenOperand, n⟩ := by
  cases i with
  | csum src => exact operand_unwritten h
  | eth src => exact ethResult_unwritten h
  | ipv4 src => exact ipv4Result_unwritten h
  | tcp src => exact tcpResult_unwritten h
  | frame src => exact frameResult_unwritten h
  | wrec src => exact wrecResult_unwritten (hw .header rfl) h
  | openFile => cases h
  | ghdr => cases h
  | closeFile => cases h

theorem ArgReg.index_le (r : ArgReg) : r.index ≤ 10 := by cases r <;> decide

theorem bufferId_le (src : Buffer) : bufferId src ≤ 0x101 := by cases src <;> decide

/-- The ids of R24 end at 0x101. -/
theorem unwrittenIds_le {n : Nat} (h : n ∈ Claims.unwrittenIds i s) : n ≤ 0x101 := by
  have hregs (rs : List ArgReg) (hn : n ∈ unwrittenRegs s.regs rs) : n ≤ 0x101 := by
    obtain ⟨r, -, rfl⟩ := List.mem_map.1 hn
    exact r.index_le.trans (by norm_num)
  cases hsrc : Claims.bufferRead i with
  | none =>
    rw [Claims.unwrittenIds, hsrc] at h
    exact hregs _ h
  | some src =>
    rw [unwrittenIds_of_bufferRead hsrc, List.mem_append] at h
    obtain h | h := h
    · rw [unwrittenBuffer] at h
      split at h
      · exact List.mem_singleton.1 h ▸ bufferId_le src
      · cases h
    · exact hregs _ h

end

/-- Settles O19: the chain of the command's checks stops at its first unwritten operand. -/
theorem unwrittenOperandIsReportedFirst : Obligations.UnwrittenOperandIsReportedFirst := by
  intro i s id hs hw h
  have hid : id < 2 ^ 32 := (unwrittenIds_le (List.mem_of_mem_head? h)).trans_lt (by norm_num)
  rw [exec_of_checkFault hs (checkFault_unwritten hw h), State.raise, infoWord_of_lt hid]

end Sys2Proof.Machine

/-! ## Completed capture commands (20_memory R66, 43_capture_writer R221 to R250)

With no fault recorded and its checks passed, a command leaves exactly its `checkedEffect`. For a capture command that
is a sink primitive, and each answer of the sink gives one equation. -/

namespace Sys2Proof.Machine

/-- The converse of the last case of `exec_cases`. -/
theorem exec_of_checkedEffect {i : Instr} {s t : State} (hs : s.fcode = none) (h : checkedEffect i s t) :
    exec i s = .next t := by
  cases i with
  | openFile | ghdr | closeFile =>
    obtain ⟨hw, rfl⟩ := h
    exact congrArg Host.Outcome.next (runCommand_ok hs (inState_ok hw))
  | _ =>
    obtain ⟨v, hv, rfl⟩ := h
    exact congrArg Host.Outcome.next (runCommand_ok hs hv)

/-- R230, byte by byte. -/
theorem globalHeader_eq : globalHeader =
    [0xD4, 0xC3, 0xB2, 0xA1, 0x02, 0x00, 0x04, 0x00, 0x00, 0x00, 0x00, 0x00,
     0x00, 0x00, 0x00, 0x00, 0xFF, 0xFF, 0x00, 0x00, 0x01, 0x00, 0x00, 0x00] := by decide

/-- The record WREC appends for a timestamp and an operand (R242, R244). -/
def recordOf (ts : BitVec 64) (b : List Byte) : CaptureRecord :=
  ⟨BitVec.ofNat 32 (wholeSeconds ts), BitVec.ofNat 32 (microseconds ts), b⟩

theorem recordOf_bytes_length (ts : BitVec 64) (b : List Byte) : (recordOf ts b).bytes.length = 16 + b.length :=
  recordBytes_length _ _ _

/-- The checks of WREC pass on written operands with an accepted timestamp, in HEADER. -/
theorem wrecResult_of_accepted {src : Buffer} {s : State} {b : List Byte} {ts : BitVec 64} (hw : s.wstate = .header)
    (hb : s.buffer src = some b) (hts : s.regs.ts = some ts) (hok : timestampOk ts = true) :
    wrecResult src s = .ok (recordOf ts b).bytes := by
  have hoperand : operand src s = .ok b := operand_eq_ok.mpr hb
  have hsplit : splitTimestamp ts = .ok (BitVec.ofNat 32 (wholeSeconds ts), BitVec.ofNat 32 (microseconds ts)) :=
    if_pos hok
  rw [wrecResult, inState_ok hw, hoperand, hts]
  simp only [Checked.bind_ok, needs_some, hsplit]
  rfl

section
variable {s : State} (hs : s.fcode = none)
include hs

theorem exec_openFile (hw : s.wstate = .closed) :
    exec .openFile s = .next (sinkControl (fun u => u.withWState .opened) (s.withStream [])) :=
  exec_of_checkedEffect hs ⟨hw, rfl⟩

theorem exec_ghdr (hw : s.wstate = .opened) :
    exec .ghdr s = .next (sinkAppend globalHeader (fun u => u.withWState .header) s) :=
  exec_of_checkedEffect hs ⟨hw, rfl⟩

theorem exec_wrec {src : Buffer} {b : List Byte} {ts : BitVec 64} (hw : s.wstate = .header)
    (hb : s.buffer src = some b) (hts : s.regs.ts = some ts) (hok : timestampOk ts = true) :
    exec (.wrec src) s = .next (sinkAppend (recordOf ts b).bytes (fun u => u) s) :=
  exec_of_checkedEffect hs ⟨_, wrecResult_of_accepted hw hb hts hok, rfl⟩

theorem exec_closeFile (hw : s.wstate = .header) :
    exec .closeFile s = .next (sinkControl (fun u => u.withWState .closed) s) :=
  exec_of_checkedEffect hs ⟨hw, rfl⟩

end

/-- Where the sink takes no more bytes than it was offered, the count it reports is the count it took. -/
theorem sinkAppend_fail_of_le {b : List Byte} {done : State → State} {s : State} {k : Nat}
    (h : s.sinkAnswer = .fail k) (hk : k ≤ b.length) :
    sinkAppend b done s = (s.drawSink.withStream (s.stream ++ b.take k)).raise ⟨.ioError, k⟩ := by
  rw [sinkAppend_fail h, Nat.min_eq_left hk]

/-- Settles O49: the sink control of OPEN succeeds on the emptied STREAM. -/
theorem openStartsAFile : Obligations.OpenStartsAFile := by
  intro s hs hw hsink
  rw [exec_openFile hs hw, sinkControl_ok ((sinkAnswer_withStream []).trans hsink)]
  rfl

/-- Settles O50: the sink takes the whole global header. -/
theorem ghdrAppendsTheGlobalHeader : Obligations.GhdrAppendsTheGlobalHeader := by
  intro s hs hw hsink
  rw [exec_ghdr hs hw, sinkAppend_ok hsink, globalHeader_eq]
  rfl

/-- Settles O51: the sink takes the whole record. -/
theorem wrecAppendsTheRecord : Obligations.WrecAppendsTheRecord := by
  intro src s b ts hs hw hb hts hok hsink
  rw [exec_wrec hs hw hb hts hok, sinkAppend_ok hsink]
  simp only [recordOf, CaptureRecord.bytes, recordBytes, ← List.append_assoc]
  rfl

/-- Settles O52: the sink control of CLOSE succeeds. -/
theorem closeCompletesTheFile : Obligations.CloseCompletesTheFile := by
  intro s hs hw hsink
  rw [exec_closeFile hs hw, sinkControl_ok hsink]
  rfl

/-- Settles O53: OPEN and CLOSE fail in the sink control, GHDR and WREC in the append, which keeps `k` bytes. -/
theorem sinkFailureKeepsThePrefix : Obligations.SinkFailureKeepsThePrefix := by
  intro s k hs hsink
  refine ⟨fun hw => ?_, fun hw => ?_, fun hw hk => ?_, fun src b ts hw hb hts hok hk => ?_⟩
  · rw [exec_openFile hs hw, sinkControl_fail ((sinkAnswer_withStream []).trans hsink), State.raise,
      infoWord_of_lt (by norm_num)]
    rfl
  · rw [exec_closeFile hs hw, sinkControl_fail hsink, State.raise, infoWord_of_lt (by norm_num)]
    rfl
  · rw [exec_ghdr hs hw, sinkAppend_fail_of_le hsink (hk.trans_eq globalHeader_length.symm), State.raise,
      infoWord_of_lt (hk.trans_lt (by norm_num))]
    rfl
  · rw [exec_wrec hs hw hb hts hok, sinkAppend_fail_of_le hsink (hk.trans_eq (recordOf_bytes_length ts b).symm)]
    rfl

/-! ## The fault a sink failure leaves (20_memory R66, 60_exceptions R273) -/

section
variable {s : State} {done : State → State} {f : FaultCode} (hs : s.fcode = none)
include hs

/-- An `Append` that leaves a fault has failed. -/
theorem sinkAppend_of_fault {b : List Byte} (hf : (sinkAppend b done s).fcode = some f)
    (hdone : ∀ u, (done u).fcode = u.fcode) :
    f = .ioError ∧ ∃ k, k ≤ b.length ∧
      sinkAppend b done s = (s.drawSink.withStream (s.stream ++ b.take k)).raise ⟨.ioError, k⟩ := by
  obtain ⟨-, h⟩ | ⟨k, hk, h⟩ := sinkAppend_cases (b := b) (done := done) (s := s)
  · rw [h, hdone] at hf
    cases hs.symm.trans hf
  · rw [h] at hf
    exact ⟨(Option.some.inj hf).symm, k, hk, h⟩

/-- A `SinkControl` that leaves a fault has failed. -/
theorem sinkControl_of_fault (hf : (sinkControl done s).fcode = some f)
    (hdone : ∀ u, (done u).fcode = u.fcode) :
    f = .ioError ∧ sinkControl done s = s.drawSink.raise ⟨.ioError, 0⟩ := by
  obtain ⟨-, h⟩ | h := sinkControl_cases (done := done) (s := s)
  · rw [h, hdone] at hf
    cases hs.symm.trans hf
  · rw [h] at hf
    exact ⟨(Option.some.inj hf).symm, h⟩

end

section
variable {i : Instr} {s t : State} {f : FaultCode}

/-- A command whose checks pass faults in the sink only, and then `k` of the bytes it offered are kept. -/
theorem checkedEffect_of_fault (hs : s.fcode = none) (h : checkedEffect i s t) (hf : t.fcode = some f) :
    f = .ioError ∧ ∃ k, k ≤ (Claims.offered i s).length ∧ t.finfo = infoWord k ∧
      t.stream = (if i = .openFile then [] else s.stream) ++ (Claims.offered i s).take k := by
  cases i with
  | openFile =>
    obtain ⟨-, rfl⟩ := h
    obtain ⟨hio, h⟩ := sinkControl_of_fault (s := s.withStream []) hs hf fun _ => rfl
    exact ⟨hio, 0, Nat.zero_le _, by rw [h]; rfl, by rw [h]; rfl⟩
  | ghdr =>
    obtain ⟨-, rfl⟩ := h
    obtain ⟨hio, k, hk, h⟩ := sinkAppend_of_fault hs hf fun _ => rfl
    exact ⟨hio, k, hk, by rw [h]; rfl, by rw [h]; rfl⟩
  | wrec src =>
    obtain ⟨r, hr, rfl⟩ := h
    obtain ⟨hio, k, hk, h⟩ := sinkAppend_of_fault hs hf fun _ => rfl
    rw [offered_wrec hr]
    exact ⟨hio, k, hk, by rw [h]; rfl, by rw [h]; rfl⟩
  | closeFile =>
    obtain ⟨-, rfl⟩ := h
    obtain ⟨hio, h⟩ := sinkControl_of_fault hs hf fun _ => rfl
    exact ⟨hio, 0, Nat.zero_le _, by rw [h]; rfl, by rw [h]; exact (List.append_nil _).symm⟩
  | _ =>
    obtain ⟨v, -, rfl⟩ := h
    cases hs.symm.trans hf

/-- A command that leaves a fault has not written Y or CSUMR and has not moved the writer. -/
theorem exec_keeps_of_fault (h : exec i s = .next t) (hf : t.fcode = some f) :
    t.bufY = s.bufY ∧ t.csumr = s.csumr ∧ t.wstate = s.wstate := by
  have hfault : t.fcode ≠ none := hf ▸ Option.some_ne_none f
  refine ⟨?_, ?_, ?_⟩ <;> by_contra hne
  · exact hfault (exec_bufY h hne).2.2
  · exact hfault (exec_csumr h hne).2.2
  · exact hfault (exec_wstate h hne).2.1

/-- What a command that leaves a fault has done to STREAM. -/
theorem exec_stream_of_fault (hs : s.fcode = none) (h : exec i s = .next t) (hf : t.fcode = some f) :
    (f ≠ .ioError → t.stream = s.stream) ∧
    (f = .ioError → ∃ k, k ≤ (Claims.offered i s).length ∧ t.finfo = infoWord k ∧
      t.stream = (if i = .openFile then [] else s.stream) ++ (Claims.offered i s).take k) := by
  obtain ⟨hne, -⟩ | ⟨-, g, hg, rfl⟩ | ⟨-, heffect⟩ := exec_cases h
  · exact absurd hs hne
  · have hcode : g.code = f := Option.some.inj hf
    exact ⟨fun _ => rfl, fun hio => absurd (hcode.trans hio) (checkFault_ne_ioError hg)⟩
  · obtain ⟨hio, hk⟩ := checkedEffect_of_fault hs heffect hf
    exact ⟨fun hne => absurd hio hne, fun _ => hk⟩

end

/-- Settles O17: the frame of every command, the writes a fault rules out, and the bytes the sink took. -/
theorem faultEntryChangesNothingElse : Obligations.FaultEntryChangesNothingElse := by
  intro i s t f hs h hf
  obtain ⟨hY, hcsumr, hw⟩ := exec_keeps_of_fault h hf
  have hframe := exec_frame h
  exact ⟨exec_regs h, exec_bufA h, hY, hcsumr, hw, by rw [hframe], exec_everRefused h, by rw [hframe],
    by rw [hframe], exec_stream_of_fault hs h hf⟩

/-! ## Reading a capture file back (43_capture_writer R244, R247) -/

/-- What the reader does with a record header whose two lengths agree and whose bytes are all there. -/
theorem readRecords_of_lengths {b : List Byte} {len : Nat} (n : Nat) (hne : b ≠ [])
    (hlen₁ : leNat ((b.drop 8).take 4) = len) (hlen₂ : leNat ((b.drop 12).take 4) = len) (hfits : 16 + len ≤ b.length) :
    readRecords (n + 1) b = (readRecords n (b.drop (16 + len))).map
      (⟨BitVec.ofNat 32 (leNat (b.take 4)), BitVec.ofNat 32 (leNat ((b.drop 4).take 4)), (b.drop 16).take len⟩ :: ·) := by
  cases b with
  | nil => exact absurd rfl hne
  | cons x rest =>
    have hgood : ¬ ((x :: rest).length < 16 + len ∨ len ≠ len) := by omega
    simp only [readRecords, hlen₁, hlen₂, if_neg hgood]
    cases readRecords n ((x :: rest).drop (16 + len)) <;> rfl

/-- A valid record at the front is read first, and what follows it with the fuel that is left. -/
theorem readRecords_bytes_append {r : CaptureRecord} (hr : r.valid) (n : Nat) (rest : List Byte) :
    readRecords (n + 1) (r.bytes ++ rest) = (readRecords n rest).map (r :: ·) := by
  have hlen : leNat (le32 (BitVec.ofNat 32 r.data.length)) = r.data.length := by
    rw [leNat_le32, BitVec.toNat_ofNat, Nat.mod_eq_of_lt hr.2]
  have hbytes : r.bytes.length = 16 + r.data.length := recordBytes_length _ _ _
  have hsecs : (r.bytes ++ rest).take 4 = le32 r.secs := rfl
  have hus : ((r.bytes ++ rest).drop 4).take 4 = le32 r.us := rfl
  have hdata : (r.bytes ++ rest).drop 16 = r.data ++ rest := rfl
  have hfits : 16 + r.data.length ≤ (r.bytes ++ rest).length := by
    rw [List.length_append, hbytes]
    exact Nat.le_add_right _ _
  rw [readRecords_of_lengths (b := r.bytes ++ rest) n (List.cons_ne_nil _ _) hlen hlen hfits,
    List.drop_left' hbytes, hsecs, hus, hdata, List.take_left, leNat_le32, leNat_le32, BitVec.ofNat_toNat,
    BitVec.ofNat_toNat, BitVec.setWidth_eq, BitVec.setWidth_eq]

theorem readRecords_flatten {rs : List CaptureRecord} (h : ∀ r ∈ rs, r.valid) {n : Nat} (hn : rs.length ≤ n) :
    readRecords n (rs.map CaptureRecord.bytes).flatten = some rs := by
  induction rs generalizing n with
  | nil => cases n <;> rfl
  | cons r rs ih =>
    obtain ⟨hr, hrs⟩ := List.forall_mem_cons.1 h
    obtain ⟨m, rfl⟩ : ∃ m, n = m + 1 := ⟨n - 1, by simp at hn; omega⟩
    rw [List.map_cons, List.flatten_cons, readRecords_bytes_append hr, ih hrs (Nat.le_of_succ_le_succ hn)]
    rfl

/-- No record is empty, so a file has at least as many bytes as records. -/
theorem length_le_captureFile_length (rs : List CaptureRecord) : rs.length ≤ (captureFile rs).length := by
  induction rs using List.reverseRecOn with
  | nil => exact Nat.zero_le _
  | append_singleton rs r ih =>
    rw [captureFile_append, List.length_append, List.length_append, CaptureRecord.bytes, recordBytes_length,
      List.length_singleton]
    omega

/-- R247 for every file: each record is read back in its place. -/
theorem readCapture_captureFile {rs : List CaptureRecord} (h : ∀ r ∈ rs, r.valid) :
    readCapture (captureFile rs) = some rs := by
  have hheader : (captureFile rs).take 24 = globalHeader := List.take_left' globalHeader_length
  have hrecords : (captureFile rs).drop 24 = (rs.map CaptureRecord.bytes).flatten :=
    List.drop_left' globalHeader_length
  rw [readCapture, if_pos hheader, hrecords, readRecords_flatten h (length_le_captureFile_length rs)]

/-! ## The record a WREC adds (43_capture_writer R242 to R244) -/

theorem wholeSeconds_le {ts : BitVec 64} (h : timestampOk ts = true) : wholeSeconds ts ≤ 2 ^ 32 - 1 := by
  rw [timestampOk, Bool.and_eq_true, decide_eq_true_iff] at h
  exact h.2

theorem recordOf_secs {ts : BitVec 64} (h : timestampOk ts = true) (b : List Byte) :
    (recordOf ts b).secs.toNat = wholeSeconds ts := by
  rw [recordOf, BitVec.toNat_ofNat, Nat.mod_eq_of_lt (by have := wholeSeconds_le h; omega)]

theorem recordOf_us (ts : BitVec 64) (b : List Byte) : (recordOf ts b).us.toNat = microseconds ts := by
  rw [recordOf, BitVec.toNat_ofNat, Nat.mod_eq_of_lt ((microseconds_le ts).trans_lt (by norm_num))]

theorem recordOf_valid {b : List Byte} (ts : BitVec 64) (hb : b.length < 2 ^ 32) : (recordOf ts b).valid :=
  ⟨(recordOf_us ts b).trans_le (microseconds_le ts), hb⟩

/-- A WREC that leaves no fault has appended the record of its written operands. -/
theorem exec_wrec_of_no_fault {src : Buffer} {s t : State} (hs : s.fcode = none) (h : exec (.wrec src) s = .next t)
    (ht : t.fcode = none) :
    ∃ b ts, s.buffer src = some b ∧ s.regs.ts = some ts ∧ timestampOk ts = true ∧
      t.stream = s.stream ++ (recordOf ts b).bytes := by
  obtain ⟨hne, -⟩ | ⟨-, f, -, rfl⟩ | ⟨-, heffect⟩ := exec_cases h
  · exact absurd hs hne
  · cases ht
  · obtain ⟨r, hr, rfl | ⟨k, rfl⟩⟩ := wrec_effect_cases heffect
    · obtain ⟨-, b, ts, hb, hts, hok, rfl⟩ := wrecResult_ok hr
      exact ⟨b, ts, hb, hts, hok, rfl⟩
    · cases ht

/-- Settles O59: the appended record is valid under the invariant, so the longer file still reads back. -/
theorem wrecAddsOneRecordAtTheEnd : Obligations.WrecAddsOneRecordAtTheEnd := by
  intro src s t rs hinv hs hstream hrs h ht
  obtain ⟨b, ts, hb, hts, hok, happend⟩ := exec_wrec_of_no_fault hs h ht
  have hvalid : (recordOf ts b).valid := recordOf_valid ts ((buffer_fits hinv.buffers hb).trans_lt bufMax_lt)
  have hfile : t.stream = captureFile (rs ++ [recordOf ts b]) := by rw [captureFile_append, happend, hstream]
  have hall : ∀ r ∈ rs ++ [recordOf ts b], r.valid := by
    simpa [or_imp, forall_and] using ⟨hrs, hvalid⟩
  exact ⟨b, ts, recordOf ts b, hb, hts, hvalid, rfl, recordOf_secs hok b, recordOf_us ts b, hfile,
    hfile ▸ readCapture_captureFile hall⟩

end Sys2Proof.Machine

/-! ## The command word by its fields (30_encoding R90 to R93) -/

namespace Sys2Proof.Machine

@[simp] theorem opField_wordOf (op : BitVec 8) (src : Buffer) : opField (wordOf op src) = op :=
  BitVec.extractLsb'_append_eq_right

@[simp] theorem ysrcField_wordOf (op : BitVec 8) (src : Buffer) : ysrcField (wordOf op src) = ysrcOf src := by
  rw [ysrcField, wordOf, BitVec.extractLsb'_append_eq_of_le (by decide)]
  exact BitVec.extractLsb'_append_eq_right

@[simp] theorem resField_wordOf (op : BitVec 8) (src : Buffer) : resField (wordOf op src) = 0 := by
  rw [resField, wordOf, BitVec.extractLsb'_append_eq_of_le (by decide)]
  exact BitVec.extractLsb'_append_eq_left

@[simp] theorem ysrcOf_bufferOf (ysrc : BitVec 1) : ysrcOf (bufferOf ysrc) = ysrc := by
  obtain rfl | rfl := BitVec.eq_zero_or_eq_one ysrc <;> rfl

/-- R90's format has no bits but the three fields. -/
theorem append_fields_eq (c : CommandWord) : resField c ++ ysrcField c ++ opField c = c := by
  have hhigh : resField c ++ ysrcField c = c.extractLsb' 8 24 :=
    BitVec.extractLsb'_append_extractLsb'_eq_extractLsb' rfl
  rw [hhigh]
  exact BitVec.extractLsb'_append_extractLsb'

theorem eq_wordOf_iff {c : CommandWord} {op : BitVec 8} {src : Buffer} :
    c = wordOf op src ↔ resField c = 0 ∧ ysrcField c = ysrcOf src ∧ opField c = op := by
  constructor
  · rintro rfl
    simp
  · rintro ⟨hres, hysrc, rfl⟩
    rw [wordOf, ← hres, ← hysrc, append_fields_eq]

/-- The mask of the rows with an operand leaves out the YSRC bit alone (R95). -/
theorem and_operandMask_eq_wordOf_iff {c : CommandWord} {op : BitVec 8} :
    c &&& 0xFFFFFEFF = wordOf op .a ↔ c = wordOf op (bufferOf (ysrcField c)) := by
  have hres : resField (c &&& 0xFFFFFEFF) = resField c := BitVec.extractLsb'_and.trans BitVec.and_allOnes
  have hysrc : ysrcField (c &&& 0xFFFFFEFF) = 0 := BitVec.extractLsb'_and.trans BitVec.and_zero
  have hop : opField (c &&& 0xFFFFFEFF) = opField c := BitVec.extractLsb'_and.trans BitVec.and_allOnes
  rw [eq_wordOf_iff, eq_wordOf_iff, hres, hysrc, hop, ysrcOf_bufferOf]
  simp [ysrcOf]

/-! ## The field checks (30_encoding R92, R93, R97) -/

theorem wellFormed_iff {c : CommandWord} :
    Command.WellFormed c = true ↔
      opField c ∈ Command.operandOps ++ Command.plainOps ∧ resField c = 0 ∧
        (ysrcField c = 0 ∨ opField c ∉ Command.plainOps) := by
  simp [Command.WellFormed, Command.opAssigned, Command.resZero, Command.ysrcAllowed, and_assoc]

theorem wellFormed_encode (i : Instr) : Command.WellFormed (encode i) = true := by
  cases i with
  | csum src => exact Laws.EncodeLegal.csum src
  | eth src => exact Laws.EncodeLegal.eth src
  | ipv4 src => exact Laws.EncodeLegal.ipv4 src
  | tcp src => exact Laws.EncodeLegal.tcp src
  | frame src => exact Laws.EncodeLegal.frame src
  | openFile => exact Laws.EncodeLegal.openFile
  | ghdr => exact Laws.EncodeLegal.ghdr
  | wrec src => exact Laws.EncodeLegal.wrec src
  | closeFile => exact Laws.EncodeLegal.closeFile

theorem exists_encode_eq_wordOf {op : BitVec 8} (h : op ∈ Command.operandOps) (src : Buffer) :
    ∃ i, encode i = wordOf op src := by
  simp only [Command.operandOps, List.mem_cons, List.not_mem_nil, or_false] at h
  obtain rfl | rfl | rfl | rfl | rfl | rfl := h
  exacts [⟨.csum src, rfl⟩, ⟨.eth src, rfl⟩, ⟨.ipv4 src, rfl⟩, ⟨.tcp src, rfl⟩, ⟨.frame src, rfl⟩, ⟨.wrec src, rfl⟩]

theorem exists_encode_eq_wordOf_a {op : BitVec 8} (h : op ∈ Command.plainOps) : ∃ i, encode i = wordOf op .a := by
  simp only [Command.plainOps, List.mem_cons, List.not_mem_nil, or_false] at h
  obtain rfl | rfl | rfl := h
  exacts [⟨.openFile, rfl⟩, ⟨.ghdr, rfl⟩, ⟨.closeFile, rfl⟩]

/-- A word that passes the field checks is the word of some command. -/
theorem exists_encode_eq_of_wellFormed {c : CommandWord} (h : Command.WellFormed c = true) : ∃ i, encode i = c := by
  obtain ⟨hop, hres, hysrc⟩ := wellFormed_iff.1 h
  by_cases hplain : opField c ∈ Command.plainOps
  · obtain ⟨i, hi⟩ := exists_encode_eq_wordOf_a hplain
    have hzero : ysrcField c = ysrcOf .a := hysrc.resolve_right (not_not.2 hplain)
    exact ⟨i, hi.trans (eq_wordOf_iff.2 ⟨hres, hzero, rfl⟩).symm⟩
  · have hoperand : opField c ∈ Command.operandOps := (List.mem_append.1 hop).resolve_right hplain
    obtain ⟨i, hi⟩ := exists_encode_eq_wordOf hoperand (bufferOf (ysrcField c))
    exact ⟨i, hi.trans (eq_wordOf_iff.2 ⟨hres, (ysrcOf_bufferOf _).symm, rfl⟩).symm⟩

/-! ## The rows of the opcode map (30_encoding R95) -/

section
variable {c : CommandWord} {r : OpcodeRow}

theorem selectedBy_iff : r.selectedBy c = true ↔ c &&& r.mask = r.pattern := beq_iff_eq

theorem pattern_eq_wordOf (hr : r ∈ opcodeTable) : r.pattern = wordOf (opField r.pattern) .a := by
  revert r
  decide

/-- A row either leaves YSRC to the operand of its command or compares the whole word with that of its command. -/
theorem row_cases (hr : r ∈ opcodeTable) :
    (r.mask = 0xFFFFFEFF ∧ ∀ src, encode (r.instr src) = wordOf (opField r.pattern) src) ∨
      (r.mask = 0xFFFFFFFF ∧ ∀ src, encode (r.instr src) = r.pattern) := by
  simp only [opcodeTable, List.mem_cons, List.not_mem_nil, or_false] at hr
  obtain rfl | rfl | rfl | rfl | rfl | rfl | rfl | rfl | rfl := hr
  exacts [.inl ⟨rfl, fun _ => rfl⟩, .inl ⟨rfl, fun _ => rfl⟩, .inl ⟨rfl, fun _ => rfl⟩, .inl ⟨rfl, fun _ => rfl⟩,
    .inl ⟨rfl, fun _ => rfl⟩, .inr ⟨rfl, fun _ => rfl⟩, .inr ⟨rfl, fun _ => rfl⟩, .inl ⟨rfl, fun _ => rfl⟩,
    .inr ⟨rfl, fun _ => rfl⟩]

/-- A row matches exactly the words of its command, with the operand that the word's YSRC selects. -/
theorem selectedBy_iff_eq_encode (hr : r ∈ opcodeTable) :
    r.selectedBy c = true ↔ c = encode (r.instr (bufferOf (ysrcField c))) := by
  rw [selectedBy_iff]
  obtain ⟨hmask, hencode⟩ | ⟨hmask, hencode⟩ := row_cases hr
  · rw [hmask, hencode, pattern_eq_wordOf hr, and_operandMask_eq_wordOf_iff, opField_wordOf]
  · have hwhole : c &&& 0xFFFFFFFF = c := BitVec.and_allOnes
    rw [hmask, hencode, hwhole]

theorem opField_eq_of_selectedBy (hr : r ∈ opcodeTable) (h : r.selectedBy c = true) :
    opField c = opField r.pattern := by
  rw [(selectedBy_iff_eq_encode hr).1 h]
  obtain ⟨-, hencode⟩ | ⟨-, hencode⟩ := row_cases hr <;> simp [hencode]

/-- No OP is assigned twice. -/
theorem opcodeTable_ops_nodup : (opcodeTable.map fun r => opField r.pattern).Nodup := by decide

end

/-! ## The encoding's obligations (30_encoding R90 to R97) -/

theorem decode_encode (i : Instr) : decode (encode i) = .ok i := by
  cases i with
  | openFile | ghdr | closeFile => rfl
  | csum src | eth src | ipv4 src | tcp src | frame src | wrec src => cases src <;> rfl

/-- Settles O2: the row that decodes a word matches only words of its command, and each command's word decodes to it. -/
theorem decodeIffEncode : Obligations.DecodeIffEncode := by
  intro c i
  constructor
  · intro h
    obtain ⟨r, hr, hsel, rfl⟩ := exists_row_of_decode_ok h
    exact (selectedBy_iff_eq_encode hr).1 (selectedBy_iff.2 hsel)
  · rintro rfl
    exact decode_encode i

/-- Settles O3: both sides say that the word is the encoding of some command. -/
theorem legalWordIffFieldsLegal : Obligations.LegalWordIffFieldsLegal := by
  intro c
  constructor
  · rintro ⟨i, h⟩
    exact (decodeIffEncode c i).1 h ▸ wellFormed_encode i
  · intro h
    obtain ⟨i, rfl⟩ := exists_encode_eq_of_wellFormed h
    exact ⟨i, decode_encode i⟩

/-- Settles O4: rows that match one word have its OP, and no OP is assigned twice, so they are one row. -/
theorem opcodeRowsDoNotOverlap : Obligations.OpcodeRowsDoNotOverlap := by
  intro c r q hr hq hrc hqc
  have hop : opField r.pattern = opField q.pattern :=
    (opField_eq_of_selectedBy hr hrc).symm.trans (opField_eq_of_selectedBy hq hqc)
  rw [List.inj_on_of_nodup_map opcodeTable_ops_nodup hr hq hop]

/-! ## Illegal words (30_encoding R97) -/

/-- Every one of R97's forms of an illegal word is one that the decoder rejects. -/
theorem exists_decode_error {c : CommandWord}
    (h : (∀ r ∈ opcodeTable, c &&& r.mask ≠ r.pattern) ∨
      opField c ∉ [0x01, 0x02, 0x03, 0x04, 0x05, 0x10, 0x11, 0x12, 0x13] ∨ resField c ≠ 0 ∨
      (ysrcField c = 1 ∧ opField c ∈ [0x10, 0x11, 0x13])) : ∃ e, decode c = .error e := by
  cases hd : decode c with
  | error e => exact ⟨e, rfl⟩
  | ok i =>
    obtain ⟨r, hr, hsel, -⟩ := exists_row_of_decode_ok hd
    obtain ⟨hop, hres, hysrc⟩ := wellFormed_iff.1 ((legalWordIffFieldsLegal c).1 ⟨i, hd⟩)
    have hops : List.Perm (Command.operandOps ++ Command.plainOps)
      [0x01, 0x02, 0x03, 0x04, 0x05, 0x10, 0x11, 0x12, 0x13] := by decide
    obtain hrow | hunassigned | hreserved | ⟨hy, hplain⟩ := h
    · exact absurd hsel (hrow r hr)
    · exact absurd (hops.mem_iff.1 hop) hunassigned
    · exact absurd hres hreserved
    · have hzero : ysrcField c = 0 := hysrc.resolve_right (not_not.2 hplain)
      exact absurd (hy.symm.trans hzero) (by decide)

theorem infoWord_toNat (w : BitVec 32) : infoWord w.toNat = w := by
  rw [infoWord_of_lt w.isLt, BitVec.ofNat_toNat, BitVec.setWidth_eq]

/-- With no fault standing, the issue of a word the decoder rejects takes the action and enters the fault. -/
theorem step_of_decode_error {s : State} {c : CommandWord} {rest : List HostAction} {e : IllegalReason}
    (hs : s.inbox = .issue c :: rest) (hf : s.fcode = none) (hd : decode c = .error e) :
    step s = .next ((s.withInbox rest).raise ⟨.illegalCommand, c.toNat⟩) := by
  have hnext : step s = .next (illegalCommand c (s.withInbox rest)) := by
    simp only [step, State.nextAction, hs, hd]
  rw [hnext, illegalCommand, runCommand_error (s := s.withInbox rest) hf rfl]

/-- Settles O5: the decoder rejects the word, and a word's number fits FINFO. -/
theorem illegalWordRaisesIllegalCommand : Obligations.IllegalWordRaisesIllegalCommand := by
  intro s c rest hs hf h
  obtain ⟨e, hd⟩ := exists_decode_error h
  rw [step_of_decode_error hs hf hd, State.raise, infoWord_toNat]
  rfl

/-! ## Written-out words (30_encoding R99, R101) -/

/-- Settles O1: each word decodes as the model's own examples say; the three illegal words match no row. -/
theorem commandWordsDecode : Obligations.CommandWordsDecode :=
  ⟨decode_csum_word, decode_ethY_word, decode_ipv4Y_word, decode_tcp_word, decode_frameY_word, decode_open_word,
    decode_ghdr_word, decode_wrecY_word, decode_close_word, rfl, rfl, rfl⟩

/-- Settles O60: the issued words are those of the commands R101 lists. -/
theorem pseudoInstructionsExpand : Obligations.PseudoInstructionsExpand := ⟨rfl, rfl, rfl⟩

end Sys2Proof.Machine

/-! ## The fold loop of the checksum (40_checksum R141 to R143)

Each fold makes a sum of 0x10000 or more smaller and keeps it modulo 0xFFFF, and it makes no positive sum zero. So the
loop ends at the residue of the sum in 1 to 0xFFFF, and at 0 for 0 only. -/

namespace Sys2Proof.Machine

section
variable {S : Nat}

theorem foldOnce_lt (h : 0x10000 ≤ S) : foldOnce S < S := by
  rw [foldOnce_eq]
  omega

theorem foldOnce_mod (S : Nat) : foldOnce S % 0xFFFF = S % 0xFFFF := by
  rw [foldOnce_eq]
  omega

@[simp] theorem foldOnce_eq_zero_iff : foldOnce S = 0 ↔ S = 0 := by
  rw [foldOnce_eq]
  omega

theorem foldOnce_le_of_le_mul {w : Nat} (h : S ≤ w * 0xFFFF) : foldOnce S ≤ (w * 0xFFFF) / 2 ^ 16 + 0xFFFF := by
  rw [foldOnce_eq]
  omega

/-- Two folds are enough for the largest sum of 0x10000 words. -/
theorem foldOnce_foldOnce_le (h : S ≤ 0x10000 * 0xFFFF) : foldOnce (foldOnce S) ≤ 0xFFFF := by
  rw [foldOnce_eq, foldOnce_eq]
  omega

theorem foldLoop_of_lt {n : Nat} (h : S < 0x10000) : foldLoop n S = S := by
  cases n with
  | zero => rfl
  | succ n => exact if_neg (not_le.2 h)

/-- `S` folds are enough, so more of them change nothing. -/
theorem foldLoop_eq_foldSum {n : Nat} (h : S ≤ n) : foldLoop n S = foldSum S := by
  induction S using Nat.strong_induction_on generalizing n with
  | _ S ih =>
    by_cases hS : S < 0x10000
    · rw [foldSum, foldLoop_of_lt hS, foldLoop_of_lt hS]
    · have hge : 0x10000 ≤ S := not_lt.1 hS
      have hlt : foldOnce S < S := foldOnce_lt hge
      obtain ⟨S, rfl⟩ : ∃ k, S = k + 1 := ⟨S - 1, by omega⟩
      obtain ⟨n, rfl⟩ : ∃ k, n = k + 1 := ⟨n - 1, by omega⟩
      simp only [foldSum, foldLoop, if_pos hge]
      rw [ih _ hlt (by omega), ih _ hlt (by omega)]

/-- The equation of R141's loop, with no count of the folds. -/
theorem foldSum_step (S : Nat) : foldSum S = if 0x10000 ≤ S then foldSum (foldOnce S) else S := by
  split
  next h =>
    have hlt : foldOnce S < S := foldOnce_lt h
    obtain ⟨S, rfl⟩ : ∃ k, S = k + 1 := ⟨S - 1, by omega⟩
    rw [foldSum, foldLoop, if_pos h, foldLoop_eq_foldSum (by omega)]
  next h => exact foldLoop_of_lt (not_le.1 h)

/-- The folded sum in closed form. -/
theorem foldSum_eq_residue (S : Nat) : foldSum S = if S = 0 then 0 else (S - 1) % 0xFFFF + 1 := by
  induction S using Nat.strong_induction_on with
  | _ S ih =>
    rw [foldSum_step]
    by_cases hge : 0x10000 ≤ S
    · have hmod : foldOnce S % 0xFFFF = S % 0xFFFF := foldOnce_mod S
      have hpos : foldOnce S ≠ 0 := by rw [ne_eq, foldOnce_eq_zero_iff]; omega
      rw [if_pos hge, ih _ (foldOnce_lt hge), if_neg hpos, if_neg (by omega)]
      omega
    · rw [if_neg hge]
      split <;> omega

@[simp] theorem foldSum_eq_zero_iff : foldSum S = 0 ↔ S = 0 := by
  rw [foldSum_eq_residue]
  split <;> omega

theorem one_le_foldSum (h : S ≠ 0) : 1 ≤ foldSum S := Nat.one_le_iff_ne_zero.2 (mt foldSum_eq_zero_iff.1 h)

theorem foldSum_le (S : Nat) : foldSum S ≤ 0xFFFF := by
  rw [foldSum_eq_residue]
  split <;> omega

theorem foldSum_mod (S : Nat) : foldSum S % 0xFFFF = S % 0xFFFF := by
  rw [foldSum_eq_residue]
  split <;> omega

/-- R143: no other number of 1 to 0xFFFF is congruent to the sum. -/
theorem eq_foldSum {v : Nat} (hS : S ≠ 0) (hpos : 1 ≤ v) (hle : v ≤ 0xFFFF) (hmod : v % 0xFFFF = S % 0xFFFF) :
    v = foldSum S := by
  rw [foldSum_eq_residue, if_neg hS]
  omega

/-- Of 0 and 0xFFFF, which are congruent, the loop gives the second for every positive multiple. -/
theorem foldSum_eq_max_iff : foldSum S = 0xFFFF ↔ S ≠ 0 ∧ S % 0xFFFF = 0 := by
  rw [foldSum_eq_residue]
  split <;> omega

end

/-! ## The sum of the words (40_checksum R141, R144) -/

section
variable {b c : List Byte}

theorem padEven_append (h : b.length % 2 = 0) : padEven (b ++ c) = b ++ padEven c := by
  have hlen : (b ++ c).length % 2 = c.length % 2 := by rw [List.length_append]; omega
  obtain hc | hc := Nat.mod_two_eq_zero_or_one c.length
  · rw [padEven_of_even hc, padEven_of_even (hlen.trans hc)]
  · rw [padEven_of_odd hc, padEven_of_odd (hlen.trans hc), List.append_assoc]

theorem wordSum_append (h : b.length % 2 = 0) : wordSum (b ++ c) = wordSum b + wordSum c := by
  rw [wordSum, padEven_append h, beWords_append _ _ h, List.sum_append, wordSum, wordSum, padEven_of_even h]

@[simp] theorem wordSum_nil : wordSum [] = 0 := rfl

@[simp] theorem wordSum_singleton (x : Byte) : wordSum [x] = x.toNat * 256 := by
  simp [wordSum, padEven_of_odd, beWords]

@[simp] theorem wordSum_cons_cons (x y : Byte) (b : List Byte) :
    wordSum (x :: y :: b) = x.toNat * 256 + y.toNat + wordSum b := by
  have hpair : wordSum [x, y] = x.toNat * 256 + y.toNat := by simp [wordSum, padEven_of_even, beWords]
  rw [← hpair, ← wordSum_append (by simp), List.cons_append, List.cons_append, List.nil_append]

theorem wordSum_be16 (v : BitVec 16) : wordSum (be16 v) = v.toNat := by
  have hv : v.toNat < 2 ^ 16 := v.isLt
  rw [be16, wordSum_cons_cons, byteAt_toNat, byteAt_toNat, wordSum_nil]
  omega

/-- A word between two parts counts as its value. -/
theorem wordSum_append_be16_append (h : b.length % 2 = 0) (v : BitVec 16) (c : List Byte) :
    wordSum (b ++ be16 v ++ c) = wordSum (b ++ be16 0 ++ c) + v.toNat := by
  have total (w : BitVec 16) : wordSum (b ++ be16 w ++ c) = wordSum b + w.toNat + wordSum c := by
    rw [List.append_assoc, wordSum_append h, wordSum_append (by simp), wordSum_be16, Nat.add_assoc]
  have hzero : (0 : BitVec 16).toNat = 0 := rfl
  rw [total v, total 0, hzero]
  omega

theorem wordSum_le (b : List Byte) : wordSum b ≤ (beWords (padEven b)).length * 0xFFFF :=
  List.sum_le_card_nsmul _ _ (beWords_le _)

theorem byte_toNat_eq_zero_iff {x : Byte} : x.toNat = 0 ↔ x = 0 := BitVec.toNat_inj (y := 0)

theorem wordSum_eq_zero_iff : ∀ {b : List Byte}, wordSum b = 0 ↔ ∀ x ∈ b, x = 0
  | [] => by simp
  | [x] => by simp [byte_toNat_eq_zero_iff]
  | x :: y :: rest => by simp [byte_toNat_eq_zero_iff, wordSum_eq_zero_iff (b := rest), and_assoc]

/-- A zero byte at the end is the padding of an odd length, or one half of a zero word. -/
theorem wordSum_append_zero : ∀ b : List Byte, wordSum (b ++ [0]) = wordSum b
  | [] => rfl
  | [x] => by simp
  | x :: y :: rest => by
    rw [List.cons_append, List.cons_append, wordSum_cons_cons, wordSum_cons_cons, wordSum_append_zero rest]

end

/-! ## The checksum (40_checksum R143 to R145) -/

section
variable {b b' : List Byte}

theorem checksum_toNat (b : List Byte) : (checksum b).toNat = 0xFFFF - foldSum (wordSum b) := by
  rw [checksum, BitVec.toNat_ofNat, Nat.mod_eq_of_lt (by omega)]

theorem checksum_eq_of_wordSum_eq (h : wordSum b = wordSum b') : checksum b = checksum b' := by
  rw [checksum, checksum, h]

theorem checksum_eq_allOnes_iff : checksum b = 0xFFFF ↔ wordSum b = 0 := by
  have hle : foldSum (wordSum b) ≤ 0xFFFF := foldSum_le _
  have hall : (0xFFFF : BitVec 16).toNat = 0xFFFF := rfl
  rw [← BitVec.toNat_inj, checksum_toNat, hall, ← foldSum_eq_zero_iff]
  omega

theorem checksum_eq_zero_iff : checksum b = 0x0000 ↔ foldSum (wordSum b) = 0xFFFF := by
  have hle : foldSum (wordSum b) ≤ 0xFFFF := foldSum_le _
  have hzero : (0x0000 : BitVec 16).toNat = 0 := rfl
  rw [← BitVec.toNat_inj, checksum_toNat, hzero]
  omega

theorem checksum_toNat_le (h : wordSum b ≠ 0) : (checksum b).toNat ≤ 0xFFFE := by
  have hpos : 1 ≤ foldSum (wordSum b) := one_le_foldSum h
  rw [checksum_toNat]
  omega

/-- One step of R145's accumulator. -/
def endAroundAdd (acc w : Nat) : Nat := if acc + w > 0xFFFF then acc + w - 0xFFFF else acc + w

theorem endAroundSum_eq_foldl (b : List Byte) : endAroundSum b = (beWords (padEven b)).foldl endAroundAdd 0 := rfl

/-- The accumulator holds the folded sum of the words so far. -/
theorem endAroundAdd_foldSum {w : Nat} (S : Nat) (h : w ≤ 0xFFFF) :
    endAroundAdd (foldSum S) w = foldSum (S + w) := by
  by_cases hzero : S + w = 0
  · obtain ⟨rfl, rfl⟩ := Nat.add_eq_zero_iff.1 hzero
    rfl
  · have hS : foldSum S = 0 ↔ S = 0 := foldSum_eq_zero_iff
    have hle : foldSum S ≤ 0xFFFF := foldSum_le S
    have hmod : foldSum S % 0xFFFF = S % 0xFFFF := foldSum_mod S
    unfold endAroundAdd
    split <;> exact eq_foldSum hzero (by omega) (by omega) (by omega)

theorem foldl_endAroundAdd {ws : List Nat} (h : ∀ w ∈ ws, w ≤ 0xFFFF) (S : Nat) :
    ws.foldl endAroundAdd (foldSum S) = foldSum (S + ws.sum) := by
  induction ws generalizing S with
  | nil => rfl
  | cons w ws ih =>
    obtain ⟨hw, hws⟩ := List.forall_mem_cons.1 h
    rw [List.foldl_cons, endAroundAdd_foldSum S hw, ih hws, List.sum_cons, Nat.add_assoc]

theorem endAroundSum_eq_foldSum (b : List Byte) : endAroundSum b = foldSum (wordSum b) := by
  have h := foldl_endAroundAdd (beWords_le (padEven b)) 0
  rwa [Nat.zero_add] at h

end

/-! ## The IPv4 header and its checksum field (40_checksum R146) -/

section
variable (ipId : BitVec 16) (src dst : BitVec 32) (proto : BitVec 8) (tl : BitVec 16)

/-- The checksum field is a word of its own. -/
theorem wordSum_ipv4Header (x : BitVec 16) :
    wordSum (ipv4Header ipId src dst proto tl x) = wordSum (ipv4Header ipId src dst proto tl 0) + x.toNat := by
  rw [ipv4Header, ipv4Header, List.append_assoc, List.append_assoc _ (be32 src)]
  exact wordSum_append_be16_append (by simp) x _

/-- The header's first byte is 0x45. -/
theorem wordSum_ipv4Header_ne_zero (x : BitVec 16) : wordSum (ipv4Header ipId src dst proto tl x) ≠ 0 := by
  intro h
  have hmem : (0x45 : Byte) ∈ ipv4Header ipId src dst proto tl x := by simp [ipv4Header]
  exact absurd (wordSum_eq_zero_iff.1 h _ hmem) (by decide)

/-- The checksum field fills the sum up to a multiple of 0xFFFF. -/
theorem foldSum_completed_ipv4Header :
    foldSum (wordSum (ipv4Header ipId src dst proto tl (checksum (ipv4Header ipId src dst proto tl 0)))) = 0xFFFF := by
  refine foldSum_eq_max_iff.2 ⟨wordSum_ipv4Header_ne_zero _ _ _ _ _ _, ?_⟩
  have hle := foldSum_le (wordSum (ipv4Header ipId src dst proto tl 0))
  have hmod := foldSum_mod (wordSum (ipv4Header ipId src dst proto tl 0))
  rw [wordSum_ipv4Header, checksum_toNat]
  omega

end

/-! ## The checksum engine's obligations (40_checksum R140 to R146) -/

/-- Settles O31: the laws of one fold, and of the loop that repeats it. -/
theorem foldLoopEnds : Obligations.FoldLoopEnds := by
  refine ⟨fun S => foldOnce_lt, foldOnce_mod, foldSum_step, fun S => ⟨foldSum_le S, foldSum_mod S⟩, wordSum_le,
    fun w S => foldOnce_le_of_le_mul, fun w S hw hS => ?_, by decide, by decide, by decide⟩
  exact foldOnce_foldOnce_le (hS.trans (Nat.mul_le_mul_right _ hw))

/-- Settles O32: the folded sum is the residue of the exact sum in 1 to 0xFFFF, and 0 for all-zero bytes only. -/
theorem checksumRange : Obligations.ChecksumRange := by
  intro b
  have hne : wordSum b ≠ 0 ↔ ∃ x ∈ b, x ≠ 0 := by simp [wordSum_eq_zero_iff]
  refine ⟨foldSum_eq_zero_iff, wordSum_eq_zero_iff,
    fun h => ⟨one_le_foldSum h, foldSum_le _, foldSum_mod _, fun v => eq_foldSum h⟩,
    checksum_eq_allOnes_iff.trans wordSum_eq_zero_iff, fun h => checksum_toNat_le (hne.2 h), ?_⟩
  rw [checksum_eq_zero_iff, foldSum_eq_max_iff, hne]

/-- Settles O33: a zero byte at the end keeps the sum of the words; before the byte 0x01 it moves that byte from the
high half of the first word to the low half. -/
theorem appendedZeroKeepsTheChecksum : Obligations.AppendedZeroKeepsTheChecksum :=
  ⟨fun b => checksum_eq_of_wordSum_eq (wordSum_append_zero b), [0x01], by decide⟩

/-- Settles O34: a sum does not depend on the order, and the accumulator holds the folded sum after every word. -/
theorem checksumIsEndAroundCarry : Obligations.ChecksumIsEndAroundCarry := by
  refine ⟨fun b b' h => checksum_eq_of_wordSum_eq h.sum_eq, fun b => ?_⟩
  rw [endAroundSum_eq_foldSum]
  exact ⟨rfl, checksum_toNat b, foldSum_eq_zero_iff, fun h => ⟨one_le_foldSum h, foldSum_le _, foldSum_mod _⟩⟩

/-- Settles O35: the completed header sums to a positive multiple of 0xFFFF. -/
theorem completedHeaderVerifies : Obligations.CompletedHeaderVerifies := by
  intro ipId src dst proto tl
  have hfold := foldSum_completed_ipv4Header ipId src dst proto tl
  have hne := wordSum_ipv4Header_ne_zero ipId src dst proto tl 0
  exact ⟨ipv4Header_length .., checksum_toNat_le hne, hfold, checksum_eq_zero_iff.2 hfold⟩

/-- Settles O30: the check of CSUM is that its operand is written, its effect the write of CSUMR. -/
theorem csumWritesTheChecksum : Obligations.CsumWritesTheChecksum :=
  fun _ _ b hs hb => exec_of_checkedEffect hs ⟨b, operand_eq_ok.2 hb, rfl⟩

end Sys2Proof.Machine

/-! ## The results of the builders (41_frame_builders R160 to R171, 42_packet_assembler R200)

With its operands written a builder comes down to its last checks, on the values read: whether the result fits
`P_BUF_MAX` (ETH, TCP), whether the total length fits 16 bits (IPV4), and the payload's own checks (FRAME). -/

namespace Sys2Proof.Machine

section
variable {src : Buffer} {s : State} {b : List Byte} (hb : s.buffer src = some b)
include hb

theorem ethResult_of_written {d m : BitVec 48} (hd : s.regs.dmac = some d) (hm : s.regs.smac = some m) :
    ethResult src s = fitsBuffer (buildEthernet d m b) := by
  rw [ethResult, operand_eq_ok.2 hb, hd, hm]
  rfl

theorem ipv4Result_of_written {sip dip : BitVec 32} {proto : BitVec 8} (hsip : s.regs.sip = some sip)
    (hdip : s.regs.dip = some dip) (hproto : s.regs.proto = some proto) :
    ipv4Result src s = buildIPv4 Config.ipId sip dip b proto := by
  rw [ipv4Result, operand_eq_ok.2 hb, hsip, hdip, hproto]
  rfl

theorem tcpResult_of_written {sp dp : BitVec 16} {seq ack : BitVec 32} {fl : BitVec 8}
    (hsp : s.regs.sport = some sp) (hdp : s.regs.dport = some dp) (hseq : s.regs.seq = some seq)
    (hack : s.regs.ack = some ack) (hfl : s.regs.tflags = some fl) :
    tcpResult src s = fitsBuffer (buildTCP sp dp seq ack fl b) := by
  rw [tcpResult, operand_eq_ok.2 hb, hsp, hdp, hseq, hack, hfl]
  rfl

theorem frameResult_of_written {sip dip : BitVec 32} {sp dp : BitVec 16} {seq ack : BitVec 32} {fl : BitVec 8}
    (hsip : s.regs.sip = some sip) (hdip : s.regs.dip = some dip) (hsp : s.regs.sport = some sp)
    (hdp : s.regs.dport = some dp) (hseq : s.regs.seq = some seq) (hack : s.regs.ack = some ack)
    (hfl : s.regs.tflags = some fl) :
    frameResult src s = (do
      asciiOnly b
      frameLength b
      buildFrame Config.ipId Config.frameDmac Config.frameSmac sip dip sp dp seq ack fl b) := by
  rw [frameResult, operand_eq_ok.2 hb, hsip, hdip, hsp, hdp, hseq, hack, hfl]
  rfl

end

/-! ## The checks on lengths (R160, R167, R170, R200) -/

section
variable {b : List Byte}

theorem fitsBuffer_of_le (h : b.length ≤ Config.bufMax) : fitsBuffer b = .ok b := fitsBuffer_eq_ok.2 ⟨rfl, h⟩

theorem fitsBuffer_of_lt (h : Config.bufMax < b.length) : fitsBuffer b = .error ⟨.bufferOverflow, b.length⟩ :=
  fitsBuffer_eq_error.2 ⟨h, rfl⟩

theorem buildIPv4_of_le (ipId : BitVec 16) (sip dip : BitVec 32) (proto : BitVec 8) (h : b.length ≤ 65515) :
    buildIPv4 ipId sip dip b proto = .ok (ipv4Packet ipId sip dip proto b) := if_neg (by omega)

theorem buildIPv4_of_lt (ipId : BitVec 16) (sip dip : BitVec 32) (proto : BitVec 8) (h : 65515 < b.length) :
    buildIPv4 ipId sip dip b proto = .error ⟨.lengthOverflow, b.length⟩ := if_pos (by omega)

theorem frameLength_of_lt (h : 65495 < b.length) : frameLength b = .error ⟨.lengthOverflow, b.length + 20⟩ := if_pos h

end

/-! ## The bytes of the headers (R161, R166, R171) -/

theorem buildEthernet_eq (d m : BitVec 48) (p : List Byte) :
    buildEthernet d m p = be48 d ++ be48 m ++ [0x08, 0x00] ++ p := rfl

theorem ipv4Header_eq (ipId : BitVec 16) (src dst : BitVec 32) (proto : BitVec 8) (tl x : BitVec 16) :
    ipv4Header ipId src dst proto tl x = [0x45, 0x00] ++ be16 tl ++ be16 ipId ++ [0x40, 0x00] ++ [0x40, proto] ++
      be16 x ++ be32 src ++ be32 dst := rfl

theorem buildTCP_eq (sp dp : BitVec 16) (seq ack : BitVec 32) (fl : BitVec 8) (p : List Byte) :
    buildTCP sp dp seq ack fl p = be16 sp ++ be16 dp ++ be32 seq ++ be32 ack ++
      [0x50, fl, 0xFF, 0xFF, 0x00, 0x00, 0x00, 0x00] ++ p := rfl

/-- R166, R167: the total length stands in bytes 2 and 3, and it does not wrap. -/
theorem packBytes_ipv4Packet_totalLength (ipId : BitVec 16) (src dst : BitVec 32) (proto : BitVec 8) {p : List Byte}
    (h : p.length ≤ 65515) :
    packBytes (((ipv4Packet ipId src dst proto p).drop 2).take 2) = 20 + p.length := by
  have hfield : ((ipv4Packet ipId src dst proto p).drop 2).take 2 = be16 (BitVec.ofNat 16 (20 + p.length)) := rfl
  rw [hfield, packBytes_be16, BitVec.toNat_ofNat, Nat.mod_eq_of_lt (by omega)]

/-- R171: the payload starts at byte 20. -/
theorem buildTCP_drop_header (sp dp : BitVec 16) (seq ack : BitVec 32) (fl : BitVec 8) (p : List Byte) :
    (buildTCP sp dp seq ack fl p).drop 20 = p := rfl

/-! ## The registers IPV4 and FRAME read (10_state R21) -/

section
variable {src : Buffer} {s : State}

theorem ipv4_regs_written (h : ∀ r ∈ Claims.regsRead (.ipv4 src), s.regs.get r ≠ none) :
    ∃ sip dip proto, s.regs.sip = some sip ∧ s.regs.dip = some dip ∧ s.regs.proto = some proto := by
  simpa [Claims.regsRead, Regs.get, Option.ne_none_iff_exists'] using h

theorem frame_regs_written (h : ∀ r ∈ Claims.regsRead (.frame src), s.regs.get r ≠ none) :
    ∃ sip dip sp dp seq ack fl, s.regs.sip = some sip ∧ s.regs.dip = some dip ∧ s.regs.sport = some sp ∧
      s.regs.dport = some dp ∧ s.regs.seq = some seq ∧ s.regs.ack = some ack ∧ s.regs.tflags = some fl := by
  simpa [Claims.regsRead, Regs.get, Option.ne_none_iff_exists'] using h

end

/-! ## The header builders' obligations (41_frame_builders R160 to R176, 42_packet_assembler R200) -/

/-- A command that starts and ends without a fault has had its effect. -/
theorem checkedEffect_of_no_fault {i : Instr} {s t : State} (hs : s.fcode = none) (h : exec i s = .next t)
    (ht : t.fcode = none) : checkedEffect i s t := by
  obtain ⟨hne, -⟩ | ⟨-, f, -, rfl⟩ | ⟨-, heffect⟩ := exec_cases h
  · exact absurd hs hne
  · cases ht
  · exact heffect

/-- Settles O36: the check of ETH passes, as the frame is 14 bytes longer than the operand. -/
theorem ethWritesTheFrame : Obligations.EthWritesTheFrame := by
  intro src s b d m hs hb hd hm hlen
  have hfits : (buildEthernet d m b).length ≤ Config.bufMax := by rw [buildEthernet_length]; omega
  have hresult := (ethResult_of_written hb hd hm).trans (fitsBuffer_of_le hfits)
  exact exec_of_checkedEffect hs ⟨_, hresult, by rw [buildEthernet_eq]; rfl⟩

/-- Settles O37: the check of IPV4 passes, and its header is the one written out. -/
theorem ipv4WritesThePacket : Obligations.Ipv4WritesThePacket := by
  intro src s b sip dip proto hs hb hsip hdip hproto hlen header
  have hheader : ipv4Header Config.ipId sip dip proto (BitVec.ofNat 16 (20 + b.length)) = header :=
    funext fun x => ipv4Header_eq _ _ _ _ _ x
  have hresult := (ipv4Result_of_written hb hsip hdip hproto).trans (buildIPv4_of_le _ _ _ _ hlen)
  exact exec_of_checkedEffect hs ⟨_, hresult, by rw [ipv4Packet, hheader]; rfl⟩

/-- Settles O38: the check of TCP passes, as the segment is 20 bytes longer than the operand. -/
theorem tcpWritesTheSegment : Obligations.TcpWritesTheSegment := by
  intro src s b sp dp seq ack fl hs hb hsp hdp hseq hack hfl hlen segment
  have hfits : (buildTCP sp dp seq ack fl b).length ≤ Config.bufMax := by rw [buildTCP_length]; omega
  have hresult := (tcpResult_of_written hb hsp hdp hseq hack hfl).trans (fitsBuffer_of_le hfits)
  exact exec_of_checkedEffect hs ⟨_, hresult, by rw [buildTCP_eq]; rfl⟩

/-- Settles O39: the check of the capacity fails, on the length of the frame or the segment. -/
theorem overlongResultRaisesBufferOverflow : Obligations.OverlongResultRaisesBufferOverflow := by
  intro src s b hs hb
  simp only [Option.ne_none_iff_exists']
  refine ⟨fun ⟨d, hd⟩ ⟨m, hm⟩ hlen => ?_, fun ⟨sp, hsp⟩ ⟨dp, hdp⟩ ⟨seq, hseq⟩ ⟨ack, hack⟩ ⟨fl, hfl⟩ hlen => ?_⟩
  · have hsize : (buildEthernet d m b).length = b.length + 14 := by rw [buildEthernet_length, Nat.add_comm]
    have hresult := (ethResult_of_written hb hd hm).trans (fitsBuffer_of_lt (hsize ▸ hlen))
    rw [exec_of_checkFault (i := .eth src) hs hresult, State.raise, hsize]
  · have hsize : (buildTCP sp dp seq ack fl b).length = b.length + 20 := by rw [buildTCP_length, Nat.add_comm]
    have hresult := (tcpResult_of_written hb hsp hdp hseq hack hfl).trans (fitsBuffer_of_lt (hsize ▸ hlen))
    rw [exec_of_checkFault (i := .tcp src) hs hresult, State.raise, hsize]

/-- Settles O40: a successful IPV4 has written the packet of its operand. -/
theorem ipv4LengthLaws : Obligations.Ipv4LengthLaws := by
  intro src s t b hs hb h ht
  obtain ⟨y, hy, rfl⟩ := checkedEffect_of_no_fault hs h ht
  obtain ⟨b', sip, dip, proto, hb', -, -, -, hlen, rfl⟩ := ipv4Result_ok hy
  obtain rfl : b' = b := Option.some.inj (hb'.symm.trans hb)
  exact ⟨_, rfl, ipv4Packet_length .., packBytes_ipv4Packet_totalLength _ _ _ _ hlen⟩

/-- Settles O41: a successful TCP has written the segment of its operand. -/
theorem tcpLengthLaw : Obligations.TcpLengthLaw := by
  intro src s t b hs hb h ht
  obtain ⟨y, hy, rfl⟩ := checkedEffect_of_no_fault hs h ht
  obtain ⟨b', sp, dp, seq, ack, fl, hb', -, -, -, -, -, rfl, -⟩ := tcpResult_ok hy
  obtain rfl : b' = b := Option.some.inj (hb'.symm.trans hb)
  exact ⟨_, rfl, buildTCP_length .., buildTCP_drop_header ..⟩

/-- Settles O45: IPV4's own check fails on the payload's length, and FRAME's after its bytes pass as 7-bit. -/
theorem overlongPayloadRaisesLengthOverflow : Obligations.OverlongPayloadRaisesLengthOverflow := by
  intro src s b hs hb
  refine ⟨fun hregs hlen => ?_, fun hregs hascii hlen => ?_⟩
  · obtain ⟨sip, dip, proto, hsip, hdip, hproto⟩ := ipv4_regs_written hregs
    have hresult := (ipv4Result_of_written hb hsip hdip hproto).trans (buildIPv4_of_lt _ _ _ _ hlen)
    exact exec_of_checkFault (i := .ipv4 src) hs hresult
  · obtain ⟨sip, dip, sp, dp, seq, ack, fl, hsip, hdip, hsp, hdp, hseq, hack, hfl⟩ := frame_regs_written hregs
    have hresult : frameResult src s = .error ⟨.lengthOverflow, b.length + 20⟩ := by
      rw [frameResult_of_written hb hsip hdip hsp hdp hseq hack hfl, (asciiOnly_eq_ok (u := ())).2 hascii,
        Checked.bind_ok, frameLength_of_lt hlen, Checked.bind_error]
    exact exec_of_checkFault (i := .frame src) hs hresult

end Sys2Proof.Machine

/-! ## FRAME (42_packet_assembler R200 to R205)

FRAME checks the payload's bytes, then its length, and then writes what TCP, IPV4 and ETH write in a row. -/

namespace Sys2Proof.Machine

/-! ## The payload's checks (R200, R201) -/

section
variable {b : List Byte}

theorem asciiOnly_of_first {k : Nat} {x : Byte} (hk : b[k]? = some x) (hx : 0x80 ≤ x.toNat)
    (hbefore : ∀ j y, j < k → b[j]? = some y → y.toNat < 0x80) : asciiOnly b = .error ⟨.nonAscii, k⟩ := by
  obtain ⟨hlt, rfl⟩ := List.getElem?_eq_some_iff.1 hk
  have hfirst : b.findIdx? (fun x => decide (0x80 ≤ x.toNat)) = some k := by
    refine List.findIdx?_eq_some_iff_getElem.2 ⟨hlt, decide_eq_true hx, fun j hj => ?_⟩
    have := hbefore j _ hj (List.getElem?_eq_getElem (hj.trans hlt))
    simpa using this
  simp only [asciiOnly, hfirst]

theorem asciiOnly_of_lt (h : ∀ x ∈ b, x.toNat < 0x80) : asciiOnly b = .ok () := asciiOnly_eq_ok.2 h

theorem frameLength_of_le (h : b.length ≤ 65495) : frameLength b = .ok () := if_neg (by omega)

/-- R202: the segment of a payload FRAME accepts fits an IPv4 packet. -/
theorem buildFrame_of_le (ipId : BitVec 16) (dmac smac : BitVec 48) (sip dip : BitVec 32) (sp dp : BitVec 16)
    (seq ack : BitVec 32) (fl : BitVec 8) (h : b.length ≤ 65495) :
    buildFrame ipId dmac smac sip dip sp dp seq ack fl b =
      .ok (buildEthernet dmac smac (ipv4Packet ipId sip dip 6 (buildTCP sp dp seq ack fl b))) := by
  have hsegment : (buildTCP sp dp seq ack fl b).length ≤ 65515 := by rw [buildTCP_length]; omega
  rw [buildFrame, buildIPv4_of_le _ _ _ _ hsegment, Checked.bind_ok]

end

/-! ## The bytes of the frame (R161, R166) -/

theorem buildEthernet_destination (d m : BitVec 48) (p : List Byte) : (buildEthernet d m p).take 6 = be48 d := rfl

theorem buildEthernet_source (d m : BitVec 48) (p : List Byte) : ((buildEthernet d m p).drop 6).take 6 = be48 m := rfl

theorem buildEthernet_drop_header (d m : BitVec 48) (p : List Byte) (n : Nat) :
    (buildEthernet d m p).drop (14 + n) = p.drop n := by
  rw [← List.drop_drop]
  rfl

theorem buildEthernet_getElem? (d m : BitVec 48) (p : List Byte) (n : Nat) :
    (buildEthernet d m p)[14 + n]? = p[n]? := by
  rw [← List.head?_drop, buildEthernet_drop_header, List.head?_drop]

theorem ipv4Packet_protocol (ipId : BitVec 16) (src dst : BitVec 32) (proto : BitVec 8) (p : List Byte) :
    (ipv4Packet ipId src dst proto p)[9]? = some proto := rfl

/-! ## The registers FRAME does not read (R203) -/

/-- Registers with other values, or none, in the four that FRAME does not read. -/
def Regs.withUnread (g : Regs) (d m : Option (BitVec 48)) (p : Option (BitVec 8)) (ts : Option (BitVec 64)) : Regs :=
  { g with dmac := d, smac := m, proto := p, ts := ts }

/-- A standing fault discards every command (60_exceptions R274). -/
theorem exec_of_fault {i : Instr} {s : State} (hs : s.fcode ≠ none) : exec i s = .next s := by
  obtain ⟨f, hf⟩ := Option.ne_none_iff_exists'.1 hs
  cases i <;> exact congrArg Host.Outcome.next (runCommand_faulted hf)

section
variable (src : Buffer) (d m : Option (BitVec 48)) (p : Option (BitVec 8)) (ts : Option (BitVec 64))

theorem frameResult_withUnread (s : State) :
    frameResult src { s with regs := s.regs.withUnread d m p ts } = frameResult src s := rfl

/-- FRAME takes the same fault or writes the same Y, whatever the four hold. -/
theorem exec_frame_withUnread {s t : State} (h : exec (.frame src) s = .next t) :
    exec (.frame src) { s with regs := s.regs.withUnread d m p ts } =
      .next { t with regs := s.regs.withUnread d m p ts } := by
  have hresult := frameResult_withUnread src d m p ts s
  obtain ⟨hs, rfl⟩ | ⟨hs, f, hf, rfl⟩ | ⟨hs, y, hy, rfl⟩ := exec_cases h
  · exact exec_of_fault hs
  · exact exec_of_checkFault (i := .frame src) hs (hresult.trans hf)
  · exact exec_of_checkedEffect hs ⟨y, hresult.trans hy, rfl⟩

end

/-! ## FRAME's obligations -/

/-- Settles O43: both checks of the payload pass, and the builders do the rest. -/
theorem frameWritesTheFrame : Obligations.FrameWritesTheFrame := by
  intro src s b sip dip sp dp seq ack fl hs hb hsip hdip hsp hdp hseq hack hfl hascii hlen segment packet
  have hresult : frameResult src s = .ok (buildEthernet Config.frameDmac Config.frameSmac packet) := by
    rw [frameResult_of_written hb hsip hdip hsp hdp hseq hack hfl, asciiOnly_of_lt hascii, Checked.bind_ok,
      frameLength_of_le hlen, Checked.bind_ok, buildFrame_of_le (h := hlen)]
  exact exec_of_checkedEffect hs ⟨_, hresult, rfl⟩

/-- Settles O44: the check of the bytes comes before that of the length, and it stops at the first one. -/
theorem nonAsciiPayloadIsReported : Obligations.NonAsciiPayloadIsReported := by
  intro src s b k x hs hb hregs hk hx hbefore
  obtain ⟨sip, dip, sp, dp, seq, ack, fl, hsip, hdip, hsp, hdp, hseq, hack, hfl⟩ := frame_regs_written hregs
  have hresult : frameResult src s = .error ⟨.nonAscii, k⟩ := by
    rw [frameResult_of_written hb hsip hdip hsp hdp hseq hack hfl, asciiOnly_of_first hk hx hbefore,
      Checked.bind_error]
  exact exec_of_checkFault (i := .frame src) hs hresult

/-- Settles O46: the frame is three headers around the payload, and the total length is that of the packet inside. -/
theorem frameLengthLaw : Obligations.FrameLengthLaw := by
  intro src s t b hs hb h ht
  obtain ⟨y, hy, rfl⟩ := checkedEffect_of_no_fault hs h ht
  obtain ⟨b', sip, dip, sp, dp, seq, ack, fl, hb', -, -, -, -, -, -, -, -, hlen, rfl⟩ := frameResult_ok hy
  obtain rfl : b' = b := Option.some.inj (hb'.symm.trans hb)
  have hsegment : (buildTCP sp dp seq ack fl b').length = 20 + b'.length := buildTCP_length ..
  refine ⟨_, rfl, ?_, ?_⟩
  · rw [buildEthernet_length, ipv4Packet_length, hsegment]
    omega
  · rw [buildEthernet_drop_header (n := 2), packBytes_ipv4Packet_totalLength _ _ _ _ (by omega), hsegment]
    omega

/-- Settles O47: TCP, IPV4 and ETH each complete (O38, O37, O36), on Y as the one before leaves it, and together they
write the frame of O43. The frame's 65549 bytes at most are what `P_BUF_MAX` has room for. -/
theorem frameEqualsTheExplicitChain : Obligations.FrameEqualsTheExplicitChain := by
  intro s b hs hb hproto hdmac hsmac hregs hascii hlen
  obtain ⟨sip, dip, sp, dp, seq, ack, fl, hsip, hdip, hsp, hdp, hseq, hack, hfl⟩ := frame_regs_written hregs
  let segment := buildTCP sp dp seq ack fl b
  let packet := ipv4Packet Config.ipId sip dip 6 segment
  have hsegment : segment.length = 20 + b.length := buildTCP_length ..
  have hpacket : packet.length = 20 + segment.length := ipv4Packet_length ..
  have hroom := bufMax_ge
  have hframe := frameWritesTheFrame .a s b sip dip sp dp seq ack fl hs hb hsip hdip hsp hdp hseq hack hfl hascii hlen
  have htcp : exec (.tcp .a) s = .next (s.withY segment) :=
    tcpWritesTheSegment .a s b sp dp seq ack fl hs hb hsp hdp hseq hack hfl (by omega)
  have hipv4 : exec (.ipv4 .y) (s.withY segment) = .next (s.withY packet) :=
    ipv4WritesThePacket .y _ segment sip dip 6 hs rfl hsip hdip hproto (by omega)
  have heth := ethWritesTheFrame .y (s.withY packet) packet _ _ hs rfl hdmac hsmac (by omega)
  exact ⟨_, _, _, _, _, hframe, htcp, hipv4, heth, hs, hs, rfl, rfl⟩

/-- Settles O48: FRAME reads none of the four registers, and a frame it writes has the parameters' addresses and
protocol 6. -/
theorem frameIgnoresOtherRegisters : Obligations.FrameIgnoresOtherRegisters := by
  intro src s t d m p ts h
  refine ⟨exec_frame_withUnread src d m p ts h, fun hs ht => ?_⟩
  obtain ⟨y, hy, rfl⟩ := checkedEffect_of_no_fault hs h ht
  obtain ⟨b, sip, dip, sp, dp, seq, ack, fl, -, -, -, -, -, -, -, -, -, -, rfl⟩ := frameResult_ok hy
  refine ⟨_, rfl, buildEthernet_destination .., buildEthernet_source .., ?_⟩
  rw [buildEthernet_getElem? (n := 9), ipv4Packet_protocol]

end Sys2Proof.Machine

/-! ## Records in the order they were written (43_capture_writer R247) -/

namespace Sys2Proof.Machine

/-- Settles O58: by induction on the records, each is read back in its place. -/
theorem completedFileReadsBack : Obligations.CompletedFileReadsBack := fun _ h => readCapture_captureFile h

end Sys2Proof.Machine

/-! ## The faults of the capture writer's checks (43_capture_writer R220, R241, 60_exceptions R280) -/

namespace Sys2Proof.Machine

/-- The check of the writer state comes first in every capture command (R280). -/
theorem checkFault_sequence {i : Instr} {w : WState} {s : State} (hi : Claims.neededState i = some w)
    (hw : s.wstate ≠ w) : checkFault i s ⟨.sequence, s.wstate.code.toNat⟩ := by
  have hcheck : inState w s = .error ⟨.sequence, s.wstate.code.toNat⟩ := inState_eq_error.2 ⟨hw, rfl⟩
  cases i with
  | openFile | ghdr | closeFile =>
    cases hi
    exact hcheck
  | wrec src =>
    cases hi
    exact Checked.bind_eq_error.2 (.inl hcheck)
  | _ => cases hi

/-- Settles O20: the first check fails, and the number of a writer state fits FINFO. -/
theorem wrongWriterStateRaisesSequence : Obligations.WrongWriterStateRaisesSequence := by
  intro i w s hs hi hw
  have hcode : s.wstate.code.toNat < 2 ^ 32 := s.wstate.code.isLt.trans (by norm_num)
  rw [exec_of_checkFault hs (checkFault_sequence hi hw), State.raise, infoWord_of_lt hcode]
  cases s.wstate <;> rfl

/-- On written operands, in HEADER, the check of WREC that can still fail is that of the range (R241). -/
theorem wrecResult_of_rejected {src : Buffer} {s : State} {ts : BitVec 64} (hw : s.wstate = .header)
    (hb : s.buffer src ≠ none) (hts : s.regs.ts = some ts) (hok : timestampOk ts = false) :
    wrecResult src s = .error ⟨.timestampRange, (ts.extractLsb' 32 32).toNat⟩ := by
  obtain ⟨b, hb⟩ := Option.ne_none_iff_exists'.1 hb
  have hoperand : operand src s = .ok b := operand_eq_ok.2 hb
  have hsplit : splitTimestamp ts = .error ⟨.timestampRange, (ts.extractLsb' 32 32).toNat⟩ := by
    rw [splitTimestamp, hok]
    rfl
  rw [wrecResult, inState_ok hw, hoperand, hts]
  simp only [Checked.bind_ok, needs_some, hsplit, Checked.bind_error]

/-- Settles O54: the check of the range fails, on the high half of TS, which is FINFO's width. -/
theorem timestampOutOfRangeIsReported : Obligations.TimestampOutOfRangeIsReported := by
  intro src s ts hs hw hb hts hok
  have hfault : checkFault (.wrec src) s ⟨.timestampRange, (ts.extractLsb' 32 32).toNat⟩ :=
    wrecResult_of_rejected hw hb hts hok
  rw [exec_of_checkFault hs hfault, State.raise, infoWord_toNat]

end Sys2Proof.Machine

/-! ## The range of a timestamp (43_capture_writer R241)

A pattern is its sign, exponent and fraction in a row. So patterns without a sign are ordered as their exponents, and
`2^32` is the least magnitude with the exponent 1055. -/

namespace Sys2Proof.Machine

section
variable (t : BitVec 64)

theorem fractionField_eq : fractionField t = t.toNat % 2 ^ 52 := by
  rw [fractionField, BitVec.extractLsb'_toNat, Nat.shiftRight_zero]

theorem exponentField_eq : exponentField t = t.toNat / 2 ^ 52 % 2 ^ 11 := by
  rw [exponentField, BitVec.extractLsb'_toNat, Nat.shiftRight_eq_div_pow]

theorem signBit_eq_false_iff : signBit t = false ↔ t.toNat < 2 ^ 63 := by
  have hmsb : signBit t = t.msb := BitVec.msb_eq_getLsbD_last t |>.symm
  rw [hmsb, BitVec.msb_eq_false_iff_two_mul_lt]
  omega

theorem magnitude_eq_zero_iff : magnitude t = 0 ↔ exponentField t = 0 ∧ fractionField t = 0 := by
  rw [magnitude]
  split
  case isTrue hzero => simp [hzero]
  case isFalse hexp => simp [hexp]

/-- Magnitudes are ordered as their exponents, as the significand of each is below twice `2^52`. -/
theorem magnitude_lt_two_pow_iff (k : Nat) : magnitude t < 2 ^ 52 * 2 ^ k ↔ exponentField t < k + 1 := by
  have hfrac := fractionField_lt t
  rw [magnitude]
  split
  case isTrue hzero =>
    have : fractionField t < 2 ^ 52 * 2 ^ k := hfrac.trans_le (Nat.le_mul_of_pos_right _ (Nat.two_pow_pos k))
    omega
  case isFalse hexp =>
    constructor
    · contrapose!
      intro hlarge
      exact Nat.mul_le_mul (Nat.le_add_right _ _) (Nat.pow_le_pow_right (by norm_num) (by omega))
    · intro hsmall
      calc (2 ^ 52 + fractionField t) * 2 ^ (exponentField t - 1)
          < 2 ^ 53 * 2 ^ (exponentField t - 1) := by gcongr; omega
        _ = 2 ^ 52 * 2 ^ exponentField t := by rw [← pow_add, ← pow_add]; congr 1; omega
        _ ≤ 2 ^ 52 * 2 ^ k := by gcongr <;> omega

theorem magnitude_lt_iff : magnitude t < 2 ^ 32 * unitsPerOne ↔ exponentField t < 1055 := by
  have hbound : 2 ^ 32 * unitsPerOne = 2 ^ 52 * 2 ^ 1054 := by rw [unitsPerOne, ← pow_add, ← pow_add]
  rw [hbound, magnitude_lt_two_pow_iff]

theorem timestampOk_iff :
    timestampOk t = true ↔ exponentField t < 1055 ∧ (signBit t = false ∨ magnitude t = 0) := by
  have hrange : magnitude t / unitsPerOne ≤ 2 ^ 32 - 1 ↔ exponentField t < 1055 := by
    rw [← magnitude_lt_iff, ← Nat.div_lt_iff_lt_mul unitsPerOne_pos]
    omega
  simp only [timestampOk, isFinite, Bool.and_eq_true, Bool.or_eq_true, Bool.not_eq_true', bne_iff_ne, beq_iff_eq,
    decide_eq_true_iff, hrange]
  constructor
  · rintro ⟨⟨-, hsign⟩, hexp⟩
    exact ⟨hexp, hsign⟩
  · rintro ⟨hexp, hsign⟩
    exact ⟨⟨by omega, hsign⟩, hexp⟩

end

/-- Settles O55: without a sign the exponent bounds the pattern, and with one only a zero magnitude is accepted. -/
theorem acceptedTimestampsAreAnInterval : Obligations.AcceptedTimestampsAreAnInterval := by
  intro ts
  have hnegZero : ts = 0x8000000000000000 ↔ ts.toNat = 2 ^ 63 := BitVec.toNat_inj.symm
  have hwidth := ts.isLt
  rw [timestampOk_iff, signBit_eq_false_iff, magnitude_eq_zero_iff, exponentField_eq, fractionField_eq, hnegZero]
  omega

end Sys2Proof.Machine

/-! ## The split and its rounding (43_capture_writer R242, R243) -/

namespace Sys2Proof.Machine

/-- Settles O56: the bounds of every timestamp, and the two patterns evaluated. -/
theorem microsecondsStayBelowAMillion : Obligations.MicrosecondsStayBelowAMillion :=
  ⟨fun ts hok => ⟨microseconds_le ts, wholeSeconds_le hok⟩, by decide +kernel, by decide +kernel⟩

/-- The nearest whole number is at most half away, and where it is exactly half away it is even. -/
theorem nearestEven_nearest {num den q : Nat} (hden : 0 < den) (hq : nearestEven num den = q) :
    2 * (max num (q * den) - min num (q * den)) ≤ den ∧
    (2 * (max num (q * den) - min num (q * den)) = den → q % 2 = 0) := by
  subst hq
  have hdiv : num / den * den + num % den = num := Nat.div_add_mod' num den
  have hlt : num % den < den := Nat.mod_lt num hden
  simp only [nearestEven]
  split
  · rw [Nat.add_mul, Nat.one_mul]
    omega
  · omega

/-- A whole number of units rounds to whole units of its last place. -/
theorem round64_one (n : Nat) : round64 n 1 = nearestEven n (2 ^ (n.log2 - 52)) * 2 ^ (n.log2 - 52) := by
  simp only [round64, Nat.div_one, Nat.one_mul]

/-- Settles O57: `round64_one` names the whole number, and a number of 53 bits rounds to at most `2 ^ 53`. -/
theorem roundingIsNearestEven : Obligations.RoundingIsNearestEven := by
  intro n u
  have hu : 0 < u := Nat.two_pow_pos _
  have hbits : n < 2 ^ (n.log2 - 52 + 53) :=
    Nat.lt_log2_self.trans_le (Nat.pow_le_pow_right (by norm_num) (by omega))
  have hround : nearestEven n u * u ≤ 2 ^ 53 * u := by
    have h := round64_le_two_pow hbits
    rwa [round64_one, pow_add, Nat.mul_comm (2 ^ (n.log2 - 52)) (2 ^ 53)] at h
  exact ⟨nearestEven n u, round64_one n, Nat.le_of_mul_le_mul_right hround hu, nearestEven_nearest hu rfl⟩

end Sys2Proof.Machine

/-! ## Faults and the steps of the engine (60_exceptions R274, R275, R281, R292, 70_reset R330)

Every meaning a step can take is a next state. While a fault stands an ISSUE, of a legal word or not, leaves the state
it was taken from, and what remains are the host's other actions, of which RESET alone writes FCODE and FINFO. -/

namespace Sys2Proof.Machine

section
variable {s : State} {rest : List HostAction}

theorem exec_completes (i : Instr) (s : State) : ∃ t, exec i s = .next t := by cases i <;> exact ⟨_, rfl⟩

theorem step_idle (hs : s.inbox = []) : step s = .next s := by simp only [step, State.nextAction, hs]

theorem step_issue_of_decode_error {c : CommandWord} {e : IllegalReason} (hs : s.inbox = .issue c :: rest)
    (hd : decode c = .error e) : step s = .next (illegalCommand c (s.withInbox rest)) := by
  simp only [step, State.nextAction, hs, hd]

theorem step_issue_completes {c : CommandWord} (hs : s.inbox = .issue c :: rest) : ∃ t, step s = .next t := by
  cases hd : decode c with
  | ok i => exact step_issue hs hd ▸ exec_completes i _
  | error e => exact ⟨_, step_issue_of_decode_error hs hd⟩

/-- Settles O7: a step holds the idle state, issues a word, or takes another host action. -/
theorem everyStepCompletes : Obligations.EveryStepCompletes := by
  refine ⟨fun s => ?_, fun s => step_idle⟩
  cases hs : s.inbox with
  | nil => exact ⟨s, step_idle hs⟩
  | cons a rest =>
    cases a with
    | issue c => exact step_issue_completes hs
    | _ => exact ⟨_, step_hostEffect hs nofun⟩

/-- While a fault stands an ISSUE only leaves the inbox, whether its word is a command or not (R274). -/
theorem step_issue_of_fault {c : CommandWord} (hf : s.fcode ≠ none) (hs : s.inbox = .issue c :: rest) :
    step s = .next (s.withInbox rest) := by
  cases hd : decode c with
  | ok i => rw [step_issue hs hd, exec_of_fault (s := s.withInbox rest) hf]
  | error e =>
    obtain h | ⟨hnone, -⟩ := illegalCommand_eq c (s.withInbox rest)
    · rw [step_issue_of_decode_error hs hd, h]
    · exact absurd hnone hf

@[simp] theorem readAnswer_withInbox (s : State) (as : List HostAction) (x : ReadTarget) :
    (s.withInbox as).readAnswer x = s.readAnswer x := by cases x <;> rfl

theorem step_read {x : ReadTarget} (hs : s.inbox = .read x :: rest) :
    step s = .next ((s.withInbox rest).withAnswer (s.readAnswer x)) := by
  rw [step_hostEffect hs nofun, hostEffect_read, readAnswer_withInbox]

end

/-- Settles O14: an ISSUE is discarded, and SET, LOAD_A and READ do what they do whatever STATUS holds. -/
theorem standingFaultDiscardsEveryIssue : Obligations.StandingFaultDiscardsEveryIssue := by
  intro s f rest hf
  have hfault : s.fcode ≠ none := hf ▸ Option.some_ne_none f
  obtain ⟨hset, hload⟩ := hostWritesRegistersAndA
  exact ⟨fun c hs => step_issue_of_fault hfault hs, fun i v r hs hr hv => hset s i r v rest hs hr hv,
    fun b hs hb => hload s b rest hs hb, fun x hs => step_read hs⟩

/-- In a fault, a step that does not take RESET leaves FCODE and FINFO (R274, R275). -/
theorem step_keeps_fault {s t : State} (hf : s.fcode ≠ none) (hreset : s.inbox.head? ≠ some .reset)
    (h : step s = .next t) : t.fcode = s.fcode ∧ t.finfo = s.finfo := by
  have hissue {c rest} (hs : s.inbox = .issue c :: rest) : t.fcode = s.fcode ∧ t.finfo = s.finfo := by
    obtain rfl := Host.Outcome.next.inj ((step_issue_of_fault hf hs).symm.trans h)
    exact ⟨rfl, rfl⟩
  obtain ⟨-, rfl⟩ | ⟨c, rest, i, hs, -⟩ | ⟨c, rest, e, hs, -⟩ | ⟨a, rest, hs, -, rfl⟩ := step_cases h
  · exact ⟨rfl, rfl⟩
  · exact hissue hs
  · exact hissue hs
  · have ha : a ≠ .reset := fun hr => hreset (by rw [hs, hr, List.head?_cons])
    obtain ⟨-, -, hfcode, -, hfinfo, -⟩ := hostEffect_keeps (s.withInbox rest) ha
    exact ⟨hfcode, hfinfo⟩

/-- Settles O15: RESET gives FCODE and FINFO their reset values, and every other step keeps them. -/
theorem onlyResetClearsAFault : Obligations.OnlyResetClearsAFault := by
  intro s t f hf h
  by_cases hreset : s.inbox.head? = some .reset
  · obtain ⟨rest, hs⟩ := List.head?_eq_some_iff.1 hreset
    obtain rfl := Host.Outcome.next.inj ((step_hostEffect hs nofun).symm.trans h)
    exact .inl ⟨hreset, rfl, rfl⟩
  · obtain ⟨hfcode, hfinfo⟩ := step_keeps_fault (hf ▸ Option.some_ne_none f) hreset h
    exact .inr ⟨hreset, hfcode.trans hf, hfinfo⟩

/-! ## The faults of each command (60_exceptions R281)

A command's own checks find the faults of its row but for IO_ERROR, and its effect leaves none but IO_ERROR, which the
sink raises under the four capture commands. -/

section
variable {i : Instr} {s t : State}

theorem checkFault_mem_possibleFaults {f : FaultInfo} (h : checkFault i s f) : f.code ∈ Claims.possibleFaults i := by
  cases i with
  | csum src => simpa [Claims.possibleFaults] using operand_fault h
  | eth src => simpa [Claims.possibleFaults] using ethResult_fault h
  | ipv4 src => simpa [Claims.possibleFaults] using ipv4Result_fault h
  | tcp src => simpa [Claims.possibleFaults] using tcpResult_fault h
  | frame src => simpa [Claims.possibleFaults] using frameResult_fault h
  | openFile | ghdr | closeFile => exact List.mem_cons.2 (.inl (inState_fault h))
  | wrec src =>
    have hcheck := wrecResult_fault h
    simp only [Claims.possibleFaults, List.mem_cons]
    tauto

theorem ioError_mem_possibleFaults (hi : Claims.neededState i ≠ none) : .ioError ∈ Claims.possibleFaults i := by
  cases i with
  | openFile | ghdr | wrec src | closeFile => simp [Claims.possibleFaults]
  | _ => exact absurd rfl hi

/-- A command that faults in its effect is one of the four that use the sink. -/
theorem neededState_of_checkedEffect_fault (hs : s.fcode = none) (h : checkedEffect i s t) (ht : t.fcode ≠ none) :
    Claims.neededState i ≠ none := by
  obtain ⟨-, y, rfl⟩ | ⟨-, v, rfl⟩ | ⟨hi, -⟩ := checkedEffect_cases h
  · exact absurd hs ht
  · exact absurd hs ht
  · exact hi

end

/-- Settles O16: the fault is one the command's checks found, or the sink's IO_ERROR. -/
theorem commandsRaiseOnlyTheirListedFaults : Obligations.CommandsRaiseOnlyTheirListedFaults := by
  intro i s t f hs h hf
  obtain ⟨hfault, -⟩ | ⟨-, g, hg, rfl⟩ | ⟨-, heffect⟩ := exec_cases h
  · exact absurd hs hfault
  · have hcode : g.code = f := Option.some.inj hf
    exact hcode ▸ checkFault_mem_possibleFaults hg
  · obtain ⟨rfl, -⟩ := checkedEffect_of_fault hs heffect hf
    exact ioError_mem_possibleFaults (neededState_of_checkedEffect_fault hs heffect (hf ▸ Option.some_ne_none _))

end Sys2Proof.Machine
